-- ==== Sys2Proof/Word.lean ====
section
/-! DEFINITION. The word types of the block: bytes, micro-addresses, microsecond words (00_scope.md R10, R11). -/

namespace Sys2Proof

/-- One byte: a ROM word, a header byte, half a pixel (20_memory.md R80, R88). -/
abbrev Byte := BitVec 8

/-- A micro-address, 5 bits (10_state.md R32). -/
abbrev Addr := BitVec 5

/-- A timebase word: 32 bits of microseconds (43_playloop.md R351). -/
abbrev Micros := BitVec 32

/-- The unsigned 32-bit word of RngNext, BusSetSpeed and `fault_info` (00_scope.md R13). -/
abbrev Word32 := BitVec 32

end Sys2Proof
end

