-- ==== Sys2Proof/Syntax.lean ====
section
/-! DEFINITION. The micro-ops: one constructor for each row of spec/opcode_table.json (30_encoding.md R131). -/

namespace Sys2Proof

/-- The micro-ops of 30_encoding.md R131. Only JMP has an operand; every other op takes its operands from the
state (R132). -/
inductive Instr where
  /-- SPD.S, 0x01 (42_boot.md R303). -/
  | spdS
  /-- SPD.D, 0x02 (42_boot.md R304). -/
  | spdD
  /-- SELECT, 0x10 (42_boot.md R306). -/
  | select
  /-- HDR.RD, 0x20 (42_boot.md R307). -/
  | hdrRd
  /-- HDR.DEC, 0x21 (40_codec.md R211). -/
  | hdrDec
  /-- HDR.ACC, 0x22 (40_codec.md R213). -/
  | hdrAcc
  /-- RATE.Q, 0x23 (40_codec.md R214). -/
  | rateQ
  /-- HINT, 0x24 (40_codec.md R215). -/
  | hint
  /-- LOAD, 0x30 (41_loader.md R253). -/
  | load
  /-- LOOPCHK, 0x31 (41_loader.md R264). -/
  | loopchk
  /-- ITER.BEGIN, 0x40 (43_playloop.md R341). -/
  | iterBegin
  /-- TE.RISE, 0x41 (43_playloop.md R343). -/
  | teRise
  /-- TE.FALL, 0x42 (43_playloop.md R344). -/
  | teFall
  /-- SETTLE, 0x43 (43_playloop.md R346). -/
  | settle
  /-- PRESENT, 0x50 (43_playloop.md R347). -/
  | present
  /-- BL.ON2, 0x51 (43_playloop.md R348). -/
  | blOn2
  /-- PACE, 0x60 (43_playloop.md R349). -/
  | pace
  /-- JMP t, 0xE0 to 0xFF, t written in decimal 0 to 31 (43_playloop.md R350, 30_encoding.md R136). -/
  | jmp (t : Nat)
deriving DecidableEq, Repr

end Sys2Proof
end

