-- ==== Sys2Proof/WellFormed.lean ====
section
/-! DEFINITION. Well-formed micro-ops and micro-programs. -/

namespace Sys2Proof

/-- A JMP target is 0 to 31 (30_encoding.md R136); no other op has an operand to check. -/
def Instr.wf : Instr → Bool
  | .jmp t => decide (t ≤ 31)
  | .spdS | .spdD | .select | .hdrRd | .hdrDec | .hdrAcc | .rateQ | .hint | .load | .loopchk
  | .iterBegin | .teRise | .teFall | .settle | .present | .blOn2 | .pace => true

/-- A micro-program fits the ROM's 32 words (20_memory.md R80), and each of its ops is well-formed. -/
def wfProgram (p : List Instr) : Bool :=
  decide (p.length ≤ 32) && p.all Instr.wf

end Sys2Proof
end

