-- ==== Sys2Proof/Decode.lean ====
section
/-! DEFINITION. The decoder, total on every byte and on every list of bytes, and after it the encoder, from the same
opcode map (30_encoding.md R130 to R135). -/

namespace Sys2Proof

/-- What decoding a word gives: an op, or the name of the rejection (30_encoding.md R133, R135). -/
inductive Decoded where
  /-- A micro-op. -/
  | op (i : Instr)
  /-- No rule of R131 assigns the word: fetching it raises ILLEGAL_OP. -/
  | illegal (w : Byte)
deriving DecidableEq, Repr

/-- The format N rows of the opcode map (30_encoding.md R131): the word is the whole opcode. -/
def opcodeMap : List (Byte × Instr) :=
  [(0x01, .spdS), (0x02, .spdD), (0x10, .select), (0x20, .hdrRd), (0x21, .hdrDec), (0x22, .hdrAcc), (0x23, .rateQ),
   (0x24, .hint), (0x30, .load), (0x31, .loopchk), (0x40, .iterBegin), (0x41, .teRise), (0x42, .teFall),
   (0x43, .settle), (0x50, .present), (0x51, .blOn2), (0x60, .pace)]

/-- The 5-bit absolute target of a format J word: `t = zext_5(w[4:0])` (30_encoding.md R132). -/
def jumpField (w : Byte) : Addr := w.extractLsb' 0 5

/-- `decode_op` of 30_encoding.md R135, total on every word. -/
def decodeOp (w : Byte) : Decoded :=
  if w.extractLsb' 5 3 = 0b111#3 then .op (.jmp (jumpField w).toNat)
  else
    match opcodeMap.find? (fun r => r.1 == w) with
    | some r => .op r.2
    | none => .illegal w

/-- Why a list of bytes gives no micro-op. -/
inductive DecodeError where
  /-- The list holds no word. -/
  | noWord
  /-- The first word is illegal (30_encoding.md R133). -/
  | illegalWord (w : Byte)
deriving DecidableEq, Repr

/-- The first micro-op of a list of bytes and the bytes after it: every word is one byte long (30_encoding.md R134). -/
def decodeBytes : List Byte → Except DecodeError (Instr × List Byte)
  | [] => .error .noWord
  | w :: rest =>
    match decodeOp w with
    | .op i => .ok (i, rest)
    | .illegal v => .error (.illegalWord v)

/-- The word of a micro-op (30_encoding.md R130, R131). -/
def encode : Instr → Byte
  | .spdS => 0x01
  | .spdD => 0x02
  | .select => 0x10
  | .hdrRd => 0x20
  | .hdrDec => 0x21
  | .hdrAcc => 0x22
  | .rateQ => 0x23
  | .hint => 0x24
  | .load => 0x30
  | .loopchk => 0x31
  | .iterBegin => 0x40
  | .teRise => 0x41
  | .teFall => 0x42
  | .settle => 0x43
  | .present => 0x50
  | .blOn2 => 0x51
  | .pace => 0x60
  | .jmp t => 0b111#3 ++ BitVec.ofNat 5 t

/-- The byte that holds an instruction whose bits, numbered as spec/opcode_table.json numbers them, are the low
`nbits` bits of `w`. -/
def tableWord (nbits w : Nat) : Byte := BitVec.ofNat 8 (w % 2 ^ nbits)

/-- The instruction this decoder reads from a word of the opcode table; `none` where it refuses. -/
def decodeTableWord (nbits w : Nat) : Option Instr :=
  match decodeOp (tableWord nbits w) with
  | .op i => some i
  | .illegal _ => none

end Sys2Proof
end

