-- ==== Sys2Proof/Config.lean ====
section
/-! DEFINITION. What an implementation fixes (the parameters of 00_scope.md R9), what the environment may answer in
one step (10_state.md R58), and the free values: opaque constants, of which nothing can be proved. -/

namespace Sys2Proof

/-- P_RATE_POLICY (40_codec.md R212). -/
inductive RatePolicy where
  | lenient
  | strict
deriving DecidableEq, Repr

/-- P_TE_EDGE_MODE (43_playloop.md R343, R344). -/
inductive TeEdgeMode where
  | strict
  | level
deriving DecidableEq, Repr

/-- P_FATAL_ACTION (60_exceptions.md R404). -/
inductive FatalAction where
  | halt
  | reset
deriving DecidableEq, Repr

/-- The parameters of 00_scope.md R9: read-only tie-offs fixed for the whole run (10_state.md R54). -/
structure Params where
  /-- P_STORAGE_HZ, a positive integer. -/
  storageHz   : Nat
  /-- P_DISPLAY_HZ, a positive integer. -/
  displayHz   : Nat
  /-- P_SETTLE_US, any natural number of microseconds. -/
  settleUs    : Nat
  ratePolicy  : RatePolicy
  teEdgeMode  : TeEdgeMode
  /-- P_SYNC_STAGES: no effect at transaction level (43_playloop.md R342). -/
  syncStages  : Nat
  fatalAction : FatalAction
  /-- P_MAX_FILES, at least 1. -/
  maxFiles    : Nat
  /-- P_EXT, the file-extension marker. -/
  ext         : List Char
  /-- P_REFRESH_HINT as a finite table keyed by (size, rate); a key that is not listed is None. -/
  refreshHint : List ((Byte × Byte) × BitVec 16)
deriving DecidableEq, Repr

/-- The domains of 00_scope.md R9. -/
def Params.wf (p : Params) : Bool :=
  decide (0 < p.storageHz) && decide (0 < p.displayHz) && decide (2 ≤ p.syncStages) && decide (1 ≤ p.maxFiles)

/-- One entry of the storage device's directory: its marker, whether it is a hidden or system entry, and the
file's bytes (60_exceptions.md R430, R431). DESIGN CHOICE, unsafe: notes/assumptions/15.md. -/
structure DirEntry where
  marker : List Char
  hidden : Bool
  bytes  : List Byte
deriving DecidableEq, Repr

/-- What the environment gives the block in ONE step (10_state.md R58, 60_exceptions.md R431). An op reads the
fields its rule asks for; the others have no effect. DESIGN CHOICE, safe: notes/assumptions/3.md. -/
structure Draw where
  /-- The external reset input (70_reset_and_hazards.md R452). -/
  reset    : Bool
  /-- How far the environment's time moves before this step's sample of it (43_playloop.md R351). -/
  elapsed  : Nat
  /-- The TE sample, high or low (43_playloop.md R342). -/
  te       : Bool
  /-- Whether the blocking transactions of this step answer (43_playloop.md R354). -/
  answers  : Bool
  /-- The directory's entries, or an enumeration error. -/
  dir      : Option (List DirEntry)
  /-- The entropy word. -/
  rng      : Word32
  /-- StreamOpen: Ok or Err. -/
  opens    : Bool
  /-- StreamRead: Err, or Ok with at most so many bytes (20_memory.md R102). -/
  read     : Option Nat
  /-- StreamSeek: Ok or Err. -/
  seeks    : Bool
  /-- DispPresent: Ok or Err. -/
  presents : Bool
  /-- What BusSetSpeed returns. -/
  actualHz : Word32
deriving DecidableEq, Repr, Inhabited

namespace Config

/-- FREE VALUE: the environment's draw of step `tick`, once the scripted draws are used up (10_state.md R58). -/
opaque freeDraw : Nat → Draw

/-- FREE VALUE: the cursor after a failed StreamRead in step `tick` (20_memory.md R103). -/
opaque freeCursor : Nat → BitVec 64

/-- FREE VALUE: what the 32 bits of `dly_len` hold when a delay of `len` microseconds that do not fit starts in step
`tick` (43_playloop.md R345, 10_state.md R48). -/
opaque freeDelayLen (len tick : Nat) : Micros

/-- P_STORAGE_HZ less 1: OPEN (00_scope.md R9). -/
opaque storageHzPred : Nat

/-- P_DISPLAY_HZ less 1: OPEN (00_scope.md R9). -/
opaque displayHzPred : Nat

/-- P_SETTLE_US: OPEN (00_scope.md R9). -/
opaque settleUs : Nat

/-- P_MAX_FILES less 1: OPEN (00_scope.md R9). -/
opaque maxFilesPred : Nat

/-- P_EXT: OPEN (00_scope.md R9). -/
opaque ext : List Char

/-- The parameters after reset: the defaults of 00_scope.md R9, and opaque constants where it says OPEN. -/
def params : Params where
  storageHz := storageHzPred + 1
  displayHz := displayHzPred + 1
  settleUs := settleUs
  ratePolicy := .lenient
  teEdgeMode := .strict
  syncStages := 2
  fatalAction := .halt
  maxFiles := maxFilesPred + 1
  ext := ext
  refreshHint := []

end Config

end Sys2Proof
end

