-- ==== Sys2Proof/Machine/State.lean ====
section
/-! DEFINITION. The state of the block as plain data (10_state.md R30), the fault codes (30_encoding.md R140), the
stops of the model, and the state after reset (70_reset_and_hazards.md R450). -/

namespace Sys2Proof.Machine

open Sys2Proof

/-- The class of traffic the shared bus is set up for (10_state.md R35). The value 0b11 is never written, so it has
no constructor. DEDUCED, safe: notes/assumptions/16.md. -/
inductive BusMode where
  | unset
  | storage
  | display
deriving DecidableEq, Repr

/-- The diagnostic of the quantizer (10_state.md R41). The value 0b11 is never written. DEDUCED, safe:
notes/assumptions/16.md. -/
inductive RateDiag where
  | none
  | zeroRaised
  | tooHigh
deriving DecidableEq, Repr

/-- The causes of a fatal fault, by the names of 30_encoding.md R140 (NONE apart). -/
inductive FatalCode where
  | badMagic
  | badVersion
  | badEncoding
  | badSize
  | badFrameRate
  | noFiles
  | enumError
  | openError
  | readError
  | shortRead
  | seekError
  | presentError
  | zeroFrameCount
  | unsupportedEncoding
  | busModeViolation
  | illegalOp
  | noStream
  | noHeader
  | noRate
  | noTimestamp
  | fbUnwritten
deriving DecidableEq, Repr

/-- A transaction the block issued, with the answer it got (00_scope.md R13), or a fault it raised, which
60_exceptions.md R404 asks a model to record. DESIGN CHOICE, safe: notes/assumptions/9.md. -/
inductive Event where
  /-- BusSetSpeed(hz), answered with the actual rate. -/
  | busSetSpeed (hz : Nat) (actual : Word32)
  /-- DirEnumerate, Ok or Err. -/
  | dirEnumerate (ok : Bool)
  /-- RngNext, and its word. -/
  | rngNext (r : Word32)
  /-- StreamOpen of the candidate at an index, Ok or Err. -/
  | streamOpen (index : Nat) (ok : Bool)
  /-- StreamRead(n): Err, or the count. -/
  | streamRead (n : Nat) (count : Option Nat)
  /-- StreamSeek(off), Ok or Err. -/
  | streamSeek (off : Nat) (ok : Bool)
  /-- DispPresent of the bytes in the order sent, Ok or Err. A byte that nothing wrote has no value. -/
  | dispPresent (frame : List (Option Byte)) (ok : Bool)
  /-- DispBacklight(b). -/
  | dispBacklight (on : Bool)
  /-- A fatal fault: its code, the address of the op and the info word. -/
  | fatal (code : FatalCode) (upc : Addr) (info : Word32)
deriving DecidableEq, Repr

/-- FB or SB: the bytes that hold a value, by address, strictly rising. An address that is not listed has no value,
which is what `unspecified` means in 10_state.md. DESIGN CHOICE, safe: notes/assumptions/5.md. -/
abbrev Memory := List Host.Cell

/-- FB_BYTES of 00_scope.md R8. -/
def fbBytes : Nat := 115200

/-- SCRATCH_BYTES of 00_scope.md R8. -/
def sbBytes : Nat := 4096

/-- The addresses of a memory lie in `[lo, lim)` and rise strictly. -/
def Memory.wfFrom (lim : Nat) : Nat → Memory → Bool
  | _, [] => true
  | lo, (a, _) :: rest => decide (lo ≤ a) && decide (a < lim) && Memory.wfFrom lim (a + 1) rest

/-- The canonical form of a memory of `lim` bytes: addresses strictly rising and below `lim`. What an unlisted
address reads as is no value, which no entry holds. -/
def Memory.wf (lim : Nat) (m : Memory) : Bool := Memory.wfFrom lim 0 m

/-- The state of the block (10_state.md R30), then what a step reads beside it: the ROM (42_boot.md R300), the
parameters (10_state.md R54), the open file (20_memory.md R84), the environment's time (43_playloop.md R351), and
the model's own fields `tick`, `script` and `events`. -/
structure State where
  /-- R32. -/
  upc         : Addr
  /-- R33. -/
  halted      : Bool
  /-- R34: `fault_code`, 0x00 for none. -/
  faultCode   : Byte
  /-- R34. -/
  faultUpc    : Addr
  /-- R34. -/
  faultInfo   : Word32
  /-- R35. -/
  busMode     : BusMode
  /-- R36. -/
  streamOpen  : Bool
  /-- R36. -/
  selIndex    : Word32
  /-- R37. -/
  cursor      : BitVec 64
  /-- R38: frames since seek. -/
  fss         : BitVec 16
  /-- R39. -/
  hbufValid   : Bool
  /-- R39. -/
  hdrBuf      : Vector Byte 8
  /-- R40. -/
  hdrValid    : Bool
  /-- R40. -/
  hdrVersion  : Byte
  /-- R40. -/
  hdrEncoding : Byte
  /-- R40. -/
  hdrSize     : Byte
  /-- R40. -/
  hdrRate     : Byte
  /-- R40. -/
  hdrCount    : BitVec 16
  /-- R41. -/
  rateValid   : Bool
  /-- R41. -/
  rateQ       : Byte
  /-- R41. -/
  budgetUs    : Micros
  /-- R41. -/
  rateDiag    : RateDiag
  /-- R42: bit 16 valid, bits 15:0 the hint. -/
  refreshHint : BitVec 17
  /-- R43: the index of the next batch of the LOAD in progress. -/
  bidx        : BitVec 5
  /-- R44. -/
  fbValid     : Bool
  /-- R45. -/
  iter        : BitVec 2
  /-- R46. -/
  tsValid     : Bool
  /-- R46. -/
  tStart      : Micros
  /-- R47: bit 1 valid, bit 0 the last TE sample. -/
  tePrev      : BitVec 2
  /-- R48. -/
  dlyActive   : Bool
  /-- R48. -/
  dlyT0       : Micros
  /-- R48. -/
  dlyLen      : Micros
  /-- R49. -/
  paceSleepUs : Micros
  /-- R50. -/
  backlight   : Bool
  /-- R56: the framebuffer. -/
  fb          : Memory
  /-- R56: the scratch buffer. -/
  sb          : Memory
  /-- The micro-program ROM; no step writes it (20_memory.md R99). DESIGN CHOICE, safe: notes/assumptions/1.md. -/
  rom         : Vector Byte 32
  /-- The parameters; no step writes them. DESIGN CHOICE, safe: notes/assumptions/2.md. -/
  par         : Params
  /-- The bytes of the file the stream is open on (20_memory.md R84, R102). -/
  file        : List Byte
  /-- The environment's time T in microseconds (43_playloop.md R351). -/
  time        : Nat
  /-- The model's own: how many steps were taken, the counter of the free values. -/
  tick        : Nat
  /-- The model's own: the environment's draws to come, one a step. -/
  script      : List Draw
  /-- The model's own: the transactions and faults so far, newest first. -/
  events      : List Event
deriving DecidableEq, Repr

/-- The reasons a step can stop for good. -/
inductive Fault where
  /-- Raised by `step` in the Halted state, where the block takes no step (60_exceptions.md R405). Safe. -/
  | halted
  /-- Raised by LOAD when `hdr_valid = 1` and `hdr_size` selects no routine, which 41_loader.md R253 says cannot
  be: only in states no run reaches. Safe: notes/assumptions/14.md. -/
  | noRoutine
  /-- Raised by LOAD when its batch lies outside FB, which 41_loader.md R262 says no batch does: only in states no
  run reaches. Safe: notes/assumptions/14.md. -/
  | outOfBounds
deriving DecidableEq, Repr

/-- The reasons the model gives an instruction no meaning. Every instruction of this hardware has one. -/
inductive Refusal where
  /-- Raised by an arm of `exec` that has no meaning yet; there is none. Safe. -/
  | notModelled (mnemonic : String)
deriving DecidableEq, Repr

/-- The normative ROM: the 22 words of 42_boot.md R300, then 0x00 at addresses 22 to 31. -/
def normativeRom : Vector Byte 32 :=
  #v[0x01, 0x10, 0x01, 0x20, 0x21, 0x22, 0x23, 0x24, 0x30, 0x40, 0x41, 0x42, 0x43, 0x02, 0x50, 0x51,
     0x01, 0x31, 0x30, 0x02, 0x60, 0xE9, 0x00, 0x00, 0x00, 0x00, 0x00, 0x00, 0x00, 0x00, 0x00, 0x00]

/-- The state right after reset (70_reset_and_hazards.md R450), with the normative ROM and nothing scripted. The
elements R450 calls unspecified hold 0. DESIGN CHOICE, unsafe: notes/assumptions/4.md. -/
def State.reset : State where
  upc := 0
  halted := false
  faultCode := 0
  faultUpc := 0
  faultInfo := 0
  busMode := .unset
  streamOpen := false
  selIndex := 0
  cursor := 0
  fss := 0
  hbufValid := false
  hdrBuf := #v[0, 0, 0, 0, 0, 0, 0, 0]
  hdrValid := false
  hdrVersion := 0
  hdrEncoding := 0
  hdrSize := 0
  hdrRate := 0
  hdrCount := 0
  rateValid := false
  rateQ := 0
  budgetUs := 0
  rateDiag := .none
  refreshHint := 0
  bidx := 0
  fbValid := false
  iter := 0
  tsValid := false
  tStart := 0
  tePrev := 0
  dlyActive := false
  dlyT0 := 0
  dlyLen := 0
  paceSleepUs := 0
  backlight := false
  fb := []
  sb := []
  rom := normativeRom
  par := Config.params
  file := []
  time := 0
  tick := 0
  script := []
  events := []

end Sys2Proof.Machine
end

