-- ==== Sys2Proof/Machine/Ops.lean ====
section
/-! DEFINITION. The named operations over memory and registers, the ways a step ends (00_scope.md R14), and fault
entry with the reset beside it (60_exceptions.md R400, 70_reset_and_hazards.md R450). There is no return from a
fault (60_exceptions.md R406). -/

namespace Sys2Proof.Machine

open Sys2Proof

/-- One byte of a memory; `none` where the address holds no value. -/
def Memory.read : Memory → Nat → Option Byte
  | [], _ => none
  | (k, v) :: rest, a => if k = a then some v else if a < k then none else Memory.read rest a

/-- The bytes of `n` successive addresses from `a`, in front of `acc` reversed. -/
def Memory.collect : Nat → Memory → Nat → List (Option Byte) → List (Option Byte)
  | 0, _, _, acc => acc.reverse
  | n + 1, m, a, acc =>
    match m.dropWhile (fun c => decide (c.1 < a)) with
    | [] => Memory.collect n [] (a + 1) (none :: acc)
    | (k, v) :: rest =>
      if k = a then Memory.collect n rest (a + 1) (some v :: acc)
      else Memory.collect n ((k, v) :: rest) (a + 1) (none :: acc)

/-- `MemRead(M, a, n)` (00_scope.md R12): the bytes M[a], …, M[a+n-1] in ascending order. -/
def Memory.readRange (m : Memory) (a n : Nat) : List (Option Byte) := Memory.collect n m a []

/-- The cells of `n` successive addresses from `a` that hold a value under `f`. -/
def cellsFrom (f : Nat → Option Byte) (a n : Nat) : List Host.Cell :=
  (List.range' a n).filterMap (fun k => (f k).map (fun v => (k, v)))

/-- Every byte of `[base, base + n)` becomes what `f` says of its address, and no other byte changes. -/
def Memory.fill (m : Memory) (base n : Nat) (f : Nat → Option Byte) : Memory :=
  m.filter (fun c => decide (c.1 < base)) ++ cellsFrom f base n ++ m.filter (fun c => decide (base + n ≤ c.1))

/-- `MemWrite(M, a, n, s)` (00_scope.md R12), `n` the length of `s`. -/
def Memory.writeBytes (m : Memory) (a : Nat) (bytes : List Byte) : Memory :=
  let src := bytes.toArray
  Memory.fill m a bytes.length (fun k => src[k - a]?)

/-- The bytes of `[a, a + n)` become unspecified. -/
def Memory.forget (m : Memory) (a n : Nat) : Memory := Memory.fill m a n (fun _ => none)

/-- The draw at the head of a script, or a free value once the script is used up (10_state.md R58). -/
def drawOf (script : List Draw) (tick : Nat) : Draw :=
  match script with
  | d :: _ => d
  | [] => Config.freeDraw tick

/-- The environment's draw for this step. -/
def State.draw (s : State) : Draw := drawOf s.script s.tick

/-- The environment's time at this step's sample: it never moves back (43_playloop.md R351). -/
def State.timeNow (s : State) : Nat := s.time + s.draw.elapsed

/-- `Now()` = T mod 2^32 (43_playloop.md R351). -/
def State.now (s : State) : Micros := BitVec.ofNat 32 s.timeNow

/-- The environment's side of a step that ends: its draw is used up and its time has moved. -/
def State.pass (s : State) : State :=
  { s with time := s.timeNow, tick := s.tick + 1, script := s.script.tail }

/-- Record one transaction (00_scope.md R13). -/
def State.emit (s : State) (e : Event) : State := { s with events := e :: s.events }

/-- `complete` of 00_scope.md R14: the op is finished and `upc` advances modulo 32. -/
def complete (s : State) : State := State.pass { s with upc := s.upc + 1 }

/-- `upc <- t; complete` of 43_playloop.md R350: the target replaces the increment. -/
def completeAt (s : State) (t : Addr) : State := State.pass { s with upc := t }

/-- `continue` and `hold` of 00_scope.md R14: the op stays at `upc`. -/
def stay (s : State) : State := State.pass s

/-- The reset of 70_reset_and_hazards.md R450: every state element of the block gets its reset value, and nothing
else happens. The ROM, the parameters, the open file's bytes, the environment and its record are not elements of
the block (10_state.md R30). -/
def blockReset (s : State) : State :=
  { State.reset with
    rom := s.rom, par := s.par, file := s.file, time := s.time, tick := s.tick, script := s.script,
    events := s.events }

/-- The numeric codes of 30_encoding.md R140. -/
def FatalCode.code : FatalCode → Byte
  | .badMagic => 0x01
  | .badVersion => 0x02
  | .badEncoding => 0x03
  | .badSize => 0x04
  | .badFrameRate => 0x05
  | .noFiles => 0x10
  | .enumError => 0x11
  | .openError => 0x12
  | .readError => 0x13
  | .shortRead => 0x14
  | .seekError => 0x15
  | .presentError => 0x16
  | .zeroFrameCount => 0x20
  | .unsupportedEncoding => 0x21
  | .busModeViolation => 0x30
  | .illegalOp => 0x31
  | .noStream => 0x32
  | .noHeader => 0x33
  | .noRate => 0x34
  | .noTimestamp => 0x35
  | .fbUnwritten => 0x36

/-- The model checks of 60_exceptions.md R401: the codes 0x30 to 0x36. -/
def FatalCode.isModelCheck (c : FatalCode) : Bool := decide (0x30 ≤ c.code.toNat)

/-- `raise Fatal(code, info)`: fault entry (60_exceptions.md R400). The latch is written and `upc` stays; then the
block halts, or resets, by P_FATAL_ACTION (R404). The fault is recorded before a reset clears the latch. -/
def raise (s : State) (c : FatalCode) (info : Word32) : State :=
  let latched : State :=
    { s with faultCode := c.code, faultUpc := s.upc, faultInfo := info, events := .fatal c s.upc info :: s.events }
  match s.par.fatalAction with
  | .halt => State.pass { latched with halted := true }
  | .reset => State.pass (blockReset latched)

/-- A precondition of an op: where it fails the op raises its fault, else the op goes on (00_scope.md R15). -/
def need (ok : Bool) (c : FatalCode) (info : Word32) (s : State) (next : State) : State :=
  if ok then next else raise s c info

/-- A blocking transaction that does not answer leaves the op where it is, for as long as the environment keeps it
so (20_memory.md R100, 43_playloop.md R354). DEDUCED, unsafe: notes/assumptions/12.md. -/
def answered (s : State) (next : State) : State :=
  if s.draw.answers then next else stay s

end Sys2Proof.Machine
end

