-- ==== Sys2Proof/Machine/Operands.lean ====
section
/-! DEFINITION. The operands of the micro-ops: JMP's target, the geometry that `hdr_size` selects (41_loader.md
R250, R251), the info words of the faults, and the answers of the collaborators (00_scope.md R13). -/

namespace Sys2Proof.Machine

open Sys2Proof

/-- JMP's operand as a micro-address, neither scaled nor relative (30_encoding.md R132). -/
def jumpTarget (t : Nat) : Addr := BitVec.ofNat 5 t

/-- The loader routine of a frame size (30_encoding.md R122, 41_loader.md R250). -/
inductive Routine where
  | blit60
  | blit120
  | blit240
deriving DecidableEq, Repr

/-- The size byte selects the routine exactly as an opcode selects an operation (30_encoding.md R122). -/
def routineOf (size : Byte) : Option Routine :=
  if size = 60 then some .blit60
  else if size = 120 then some .blit120
  else if size = 240 then some .blit240
  else none

/-- The frame side in pixels (41_loader.md R250). -/
def Routine.side : Routine → Nat
  | .blit60 => 60
  | .blit120 => 120
  | .blit240 => 240

/-- `rows_per_batch` (41_loader.md R250). -/
def Routine.rows : Routine → Nat
  | .blit60 => 30
  | .blit120 => 15
  | .blit240 => 8

/-- `batches` (41_loader.md R250). -/
def Routine.batches : Routine → Nat
  | .blit60 => 2
  | .blit120 => 8
  | .blit240 => 30

/-- `scale` (41_loader.md R250). -/
def Routine.scale : Routine → Nat
  | .blit60 => 4
  | .blit120 => 2
  | .blit240 => 1

/-- `batch_bytes = rows_per_batch * size * 2` (41_loader.md R251). -/
def Routine.batchBytes (r : Routine) : Nat := r.rows * r.side * 2

/-- `frame_bytes = size * size * 2` (41_loader.md R251). -/
def Routine.frameBytes (r : Routine) : Nat := r.side * r.side * 2

/-- The bytes of FB one batch writes: `rows_per_batch * scale` rows of 480 bytes (41_loader.md R255 to R257). -/
def Routine.fbBatchBytes (r : Routine) : Nat := r.rows * r.scale * 480

/-- `zext_32(w)`: the info word of the validity checks (30_encoding.md R140). -/
def wordInfo (w : Byte) : Word32 := w.zeroExtend 32

/-- The 2-bit value of a bus mode (10_state.md R35). -/
def BusMode.bits : BusMode → BitVec 2
  | .unset => 0b00
  | .storage => 0b01
  | .display => 0b10

/-- `zext_32({bus_mode, w})`: the info word of BUS_MODE_VIOLATION (30_encoding.md R140). -/
def modeInfo (s : State) (w : Byte) : Word32 := (s.busMode.bits ++ w).zeroExtend 32

/-- `DirEnumerate()`: Err, or the files that carry the P_EXT marker and are neither hidden nor system entries; that
filter is the collaborator's duty (60_exceptions.md R430). DESIGN CHOICE, unsafe: notes/assumptions/15.md. -/
def dirEnumerate (s : State) : Option (List (List Byte)) :=
  s.draw.dir.map fun entries =>
    (entries.filter fun e => decide (e.marker = s.par.ext) && !e.hidden).map DirEntry.bytes

/-- `StreamRead(n)` at the cursor: Err, or `count ≤ n` bytes of the open file from there (20_memory.md R102). A
healthy device draws at least `n` and so gives `min(n, max(0, file_len − cursor))` bytes. -/
def streamRead (s : State) (n : Nat) : Option (List Byte) :=
  s.draw.read.map fun k => (s.file.drop s.cursor.toNat).take (min k n)

/-- P_SETTLE_US as the 32 bits of `dly_len` take it (43_playloop.md R346, 10_state.md R48). The spec does not state what
the register holds of a length that does not fit: a free value. DESIGN CHOICE, unsafe: notes/assumptions/17.md. -/
def settleLen (s : State) : Micros :=
  if s.par.settleUs < 2 ^ 32 then BitVec.ofNat 32 s.par.settleUs else Config.freeDelayLen s.par.settleUs s.tick

/-- The state after a failed StreamRead: the cursor is unspecified, a free value (20_memory.md R103, 60_exceptions.md
R403; which transactions that means: notes/assumptions/6.md). -/
def loseCursor (s : State) : State := { s with cursor := Config.freeCursor s.tick }

end Sys2Proof.Machine
end

