-- ==== Sys2Proof/Machine/Flags.lean ====
section
/-! DEFINITION. The status bits. The block has no condition codes (10_state.md R52); what an observer sees is the
STATUS word (R53) and the source's state as a function of `upc` (42_boot.md R301). -/

namespace Sys2Proof.Machine

open Sys2Proof

/-- One status bit. -/
def bit (b : Bool) : BitVec 1 := BitVec.ofBool b

/-- The 2-bit value of a quantizer diagnostic (10_state.md R41). -/
def RateDiag.bits : RateDiag → BitVec 2
  | .none => 0b00
  | .zeroRaised => 0b01
  | .tooHigh => 0b10

/-- The STATUS word of 10_state.md R53, most significant field first: FAULT_CODE 31:24, reserved 23:17, RATE_DIAG
16:15, ITER 14:13, FB_VALID 12, RATE_VALID 11, HDR_VALID 10, STREAM_OPEN 9, BACKLIGHT 8, BUS_MODE 7:6, HALTED 5,
UPC 4:0. -/
def status (s : State) : Word32 :=
  s.faultCode ++ 0#7 ++ s.rateDiag.bits ++ s.iter ++ bit s.fbValid ++ bit s.rateValid ++ bit s.hdrValid
    ++ bit s.streamOpen ++ bit s.backlight ++ s.busMode.bits ++ bit s.halted ++ s.upc

/-- The steps of the source's PlayLoop, and its repeat (42_boot.md R301). -/
inductive PlayStep where
  /-- The vsync wait, with ITER.BEGIN before it. -/
  | step1
  /-- The display rate, the framebuffer, the backlight. -/
  | step2
  /-- The storage rate, the loop point, the next frame. -/
  | step3
  /-- Back to the display rate. -/
  | step4
  /-- The pacing. -/
  | step5
  /-- The jump back. -/
  | again
deriving DecidableEq, Repr

/-- The states of the source's state machine, and Halted, which is outside it (42_boot.md R301). -/
inductive Phase where
  | init
  | selectFile
  | loadHeader
  | primeFirstFrame
  | playLoop (step : PlayStep)
  | halted
deriving DecidableEq, Repr

/-- The step of PlayLoop at an address from 9 to 21 (42_boot.md R301). -/
def playStep (u : Nat) : PlayStep :=
  if u ≤ 12 then .step1
  else if u ≤ 15 then .step2
  else if u ≤ 18 then .step3
  else if u = 19 then .step4
  else if u = 20 then .step5
  else .again

/-- The source's state as a function of `upc` (42_boot.md R301); no state of the source stands at 22 to 31. -/
def phase (s : State) : Option Phase :=
  let u := s.upc.toNat
  if s.halted then some .halted
  else if u = 0 then some .init
  else if u = 1 then some .selectFile
  else if u ≤ 7 then some .loadHeader
  else if u = 8 then some .primeFirstFrame
  else if u ≤ 21 then some (.playLoop (playStep u))
  else none

end Sys2Proof.Machine
end

