-- ==== Sys2Proof/Machine/Boot.lean ====
section
/-! DEFINITION. The bus arbiter and the boot ops SPD.S, SPD.D, SELECT and HDR.RD (42_boot.md). -/

namespace Sys2Proof.Machine

open Sys2Proof

/-- One `BusSetSpeed(hz)`, whose answer is discarded, and the bus mode it sets up (42_boot.md R303, R304). -/
def setSpeed (s : State) (hz : Nat) (mode : BusMode) : State :=
  answered s <| complete { s.emit (.busSetSpeed hz s.draw.actualHz) with busMode := mode }

/-- SPD.S: set the shared bus to storage speed (42_boot.md R303). -/
def execSpdS (s : State) : Host.Outcome State Fault Refusal := .next (setSpeed s s.par.storageHz .storage)

/-- SPD.D: set the shared bus to display speed (42_boot.md R304). -/
def execSpdD (s : State) : Host.Outcome State Fault Refusal := .next (setSpeed s s.par.displayHz .display)

/-- The stream open on the candidate of index `i`, at offset 0 with no frame read (42_boot.md R306). -/
def openedAt (s : State) (i : Nat) (file : List Byte) : State :=
  { s with selIndex := BitVec.ofNat 32 i, streamOpen := true, cursor := 0, fss := 0, file := file }

/-- RngNext and the StreamOpen of the drawn candidate, recorded in their order (42_boot.md R306). -/
def openTried (s : State) (i : Nat) (ok : Bool) : State :=
  { s with events := .streamOpen i ok :: .rngNext s.draw.rng :: s.events }

/-- SELECT once DirEnumerate has answered with a list (42_boot.md R306): the list is cut to its first P_MAX_FILES
entries, and the entry at `r mod n` is opened. -/
def selectFrom (s : State) (list : List (List Byte)) : State :=
  let n := min list.length s.par.maxFiles
  if n = 0 then raise s .noFiles 0
  else
    let i := s.draw.rng.toNat % n
    if s.draw.opens then complete (openedAt (openTried s i true) i (list.getD i []))
    else raise (openTried s i false) .openError (BitVec.ofNat 32 i)

/-- SELECT: choose the container file at random and open it (42_boot.md R306). -/
def execSelect (s : State) : Host.Outcome State Fault Refusal :=
  .next <|
    need (decide (s.busMode = .storage)) .busModeViolation (modeInfo s 0x10) s <|
    answered s <|
    match dirEnumerate s with
    | none => raise (s.emit (.dirEnumerate false)) .enumError 0
    | some list => selectFrom (s.emit (.dirEnumerate true)) list

/-- `for i in 0..7: hdr_buf[i] <- s[i]` (42_boot.md R307), of a list that holds eight bytes. -/
def headerBytes (b : List Byte) : Vector Byte 8 :=
  #v[b.getD 0 0, b.getD 1 0, b.getD 2 0, b.getD 3 0, b.getD 4 0, b.getD 5 0, b.getD 6 0, b.getD 7 0]

/-- HDR.RD: read the 8 header bytes (42_boot.md R307). -/
def execHdrRd (s : State) : Host.Outcome State Fault Refusal :=
  .next <|
    need (decide (s.busMode = .storage)) .busModeViolation (modeInfo s 0x20) s <|
    need s.streamOpen .noStream (wordInfo 0x20) s <|
    answered s <|
    match streamRead s 8 with
    | none => raise (loseCursor (s.emit (.streamRead 8 none))) .readError 8
    | some b =>
      if b.length < 8 then
        raise (loseCursor (s.emit (.streamRead 8 (some b.length)))) .shortRead (BitVec.ofNat 32 b.length)
      else
        complete
          { s.emit (.streamRead 8 (some b.length)) with
            hdrBuf := headerBytes b, hbufValid := true, cursor := s.cursor + 8 }

end Sys2Proof.Machine
end

