-- ==== Sys2Proof/Machine/Codec.lean ====
section
/-! DEFINITION. The Container Codec (40_codec.md): the pure functions decode, encode, quantize and budget, and the
micro-ops HDR.DEC, HDR.ACC, RATE.Q and HINT. -/

namespace Sys2Proof.Machine

open Sys2Proof

/-- The header record of 40_codec.md R200; the magic is not kept (R201). -/
structure Header where
  version    : Byte
  encoding   : Byte
  size       : Byte
  frameRate  : Byte
  frameCount : BitVec 16
deriving DecidableEq, Repr

/-- The format errors of 40_codec.md R200. -/
inductive HeaderError where
  | badMagic
  | badVersion
  | badEncoding
  | badSize
  | badFrameRate
deriving DecidableEq, Repr

/-- What `decode` returns. -/
inductive HeaderResult where
  | ok (h : Header)
  | err (e : HeaderError)
deriving DecidableEq, Repr

/-- The membership test of S(size) (40_codec.md R204); it is asked only of the three sizes (R203). -/
def supportedRate (size rate : Byte) : Bool :=
  if size = 60 then decide (rate.toNat ∈ [1, 2, 3, 4, 5, 6, 8, 10, 12, 15, 20, 24])
  else if size = 120 then decide (rate.toNat ∈ [1, 2, 3, 4, 5, 6, 8, 10, 12])
  else if size = 240 then decide (rate.toNat ∈ [1, 2, 3, 4, 5, 6, 8])
  else false

/-- `frame_count` is little-endian: byte 6 is the low byte (20_memory.md R85, 40_codec.md R201). -/
def frameCountOf (b : Vector Byte 8) : BitVec 16 := b[7] ++ b[6]

/-- `decode(b, policy)`: the checks in the source's order, the first that fails gives the result (40_codec.md R202). -/
def decodeHeader (b : Vector Byte 8) (policy : RatePolicy) : HeaderResult :=
  if b[0] ≠ 0x4C ∨ b[1] ≠ 0x55 then .err .badMagic
  else if b[2] ≠ 0 then .err .badVersion
  else if b[3] ≠ 0 ∧ b[3] ≠ 1 then .err .badEncoding
  else if b[4] ≠ 60 ∧ b[4] ≠ 120 ∧ b[4] ≠ 240 then .err .badSize
  else if policy = .strict ∧ supportedRate b[4] b[5] = false then .err .badFrameRate
  else
    .ok { version := b[2], encoding := b[3], size := b[4], frameRate := b[5], frameCount := frameCountOf b }

/-- `encode(h)`: the exact inverse layout, no validation (40_codec.md R205). No micro-op issues it. -/
def encodeHeader (h : Header) : Vector Byte 8 :=
  #v[0x4C, 0x55, h.version, h.encoding, h.size, h.frameRate, h.frameCount.extractLsb' 0 8,
     h.frameCount.extractLsb' 8 8]

/-- `bucket(r)`, the first stage of the quantizer (40_codec.md R206). The last arm takes 17 and 18 as well
(90_conflicts.md C7). -/
def bucket (r : Nat) : Nat × RateDiag :=
  if r = 0 then (1, .zeroRaised)
  else if 1 ≤ r ∧ r ≤ 6 then (r, .none)
  else if 7 ≤ r ∧ r ≤ 8 then (8, .none)
  else if 9 ≤ r ∧ r ≤ 11 then (10, .none)
  else if 12 ≤ r ∧ r ≤ 13 then (12, .none)
  else if 14 ≤ r ∧ r ≤ 16 then (15, .none)
  else if 19 ≤ r ∧ r ≤ 21 then (20, .none)
  else if 22 ≤ r ∧ r ≤ 26 then (24, .none)
  else (15, .tooHigh)

/-- `quantize(r, size)`: bucket, then the clamp of the size (40_codec.md R207). -/
def quantize (r : Nat) (size : Byte) : Nat × RateDiag :=
  let q := (bucket r).1
  let q := if size = 120 then min q 12 else q
  let q := if size = 240 then min q 4 else q
  (q, (bucket r).2)

/-- `budget(q)` in microseconds, floor division (40_codec.md R208). -/
def budget (q : Nat) : Nat := 1000000 / q - 200

/-- The fault of a format error, and its info word (30_encoding.md R140). -/
def headerFault (b : Vector Byte 8) : HeaderError → FatalCode × Word32
  | .badMagic => (.badMagic, (b[0] ++ b[1]).zeroExtend 32)
  | .badVersion => (.badVersion, wordInfo b[2])
  | .badEncoding => (.badEncoding, wordInfo b[3])
  | .badSize => (.badSize, wordInfo b[4])
  | .badFrameRate => (.badFrameRate, (b[4] ++ b[5]).zeroExtend 32)

/-- HDR.DEC: decode the header bytes (40_codec.md R211). -/
def execHdrDec (s : State) : Host.Outcome State Fault Refusal :=
  .next <|
    need s.hbufValid .noHeader (wordInfo 0x21) s <|
    match decodeHeader s.hdrBuf s.par.ratePolicy with
    | .err e => raise s (headerFault s.hdrBuf e).1 (headerFault s.hdrBuf e).2
    | .ok h =>
      complete
        { s with
          hdrVersion := h.version, hdrEncoding := h.encoding, hdrSize := h.size, hdrRate := h.frameRate,
          hdrCount := h.frameCount, hdrValid := true }

/-- HDR.ACC: accept the header for playback (40_codec.md R213). -/
def execHdrAcc (s : State) : Host.Outcome State Fault Refusal :=
  .next <|
    need s.hdrValid .noHeader (wordInfo 0x22) s <|
    need (decide (s.hdrEncoding = 1)) .unsupportedEncoding (wordInfo s.hdrEncoding) s <|
    need (decide (s.hdrCount ≠ 0)) .zeroFrameCount 0 s <|
    complete s

/-- RATE.Q: quantize the frame rate and derive the budget (40_codec.md R214). -/
def execRateQ (s : State) : Host.Outcome State Fault Refusal :=
  .next <|
    need s.hdrValid .noHeader (wordInfo 0x23) s <|
    let qd := quantize s.hdrRate.toNat s.hdrSize
    complete
      { s with
        rateQ := BitVec.ofNat 8 qd.1, budgetUs := BitVec.ofNat 32 (budget qd.1), rateDiag := qd.2,
        rateValid := true }

/-- `P_REFRESH_HINT(size, rate)` (00_scope.md R9); None is the default. -/
def lookupHint (p : Params) (size rate : Byte) : Option (BitVec 16) :=
  (p.refreshHint.find? fun e => e.1 == (size, rate)).map Prod.snd

/-- The 17-bit value HINT latches: 0 for None, `{1, v}` for a hint v (40_codec.md R215). -/
def hintWord : Option (BitVec 16) → BitVec 17
  | none => 0
  | some v => 1#1 ++ v

/-- HINT: latch the display refresh-rate hint (40_codec.md R215). -/
def execHint (s : State) : Host.Outcome State Fault Refusal :=
  .next <|
    need s.hdrValid .noHeader (wordInfo 0x24) s <|
    need s.rateValid .noRate (wordInfo 0x24) s <|
    complete { s with refreshHint := hintWord (lookupHint s.par s.hdrSize s.rateQ) }

end Sys2Proof.Machine
end

