-- ==== Sys2Proof/Machine/Loader.lean ====
section
/-! DEFINITION. The Streaming Frame Loader: the three blits, LOAD and LOOPCHK (41_loader.md). -/

namespace Sys2Proof.Machine

open Sys2Proof

/-- The SB byte that the FB byte at address `a` is copied from, in batch `b` of a frame of `side × side` pixels
with `rows` source rows a batch, each pixel replicated `scale × scale` times (41_loader.md R255, R256, R261). -/
def blitSource (side rows scale b a : Nat) : Nat :=
  let x := a / 2 % 240
  let y := a / 2 / 240
  let lr := (y - rows * scale * b) / scale
  let sx := x / scale
  2 * (lr * side + sx) + a % 2

/-- A replicating blit: batch `b` writes FB rows `rows*scale*b` to `rows*scale*(b+1) − 1`, all 240 columns, each
byte once, so in any order (41_loader.md R258). -/
def replicate (side rows scale b : Nat) (fb sb : Memory) : Memory :=
  let src := (sb.readRange 0 (rows * side * 2)).toArray
  fb.fill (rows * scale * b * 480) (rows * scale * 480) (fun a => (src[blitSource side rows scale b a]?).join)

/-- BLIT60(b): the 4× nearest-neighbor replicate (41_loader.md R255). -/
def blit60 (b : Nat) (fb sb : Memory) : Memory := replicate 60 30 4 b fb sb

/-- BLIT120(b): the 2× nearest-neighbor replicate (41_loader.md R256). -/
def blit120 (b : Nat) (fb sb : Memory) : Memory := replicate 120 15 2 b fb sb

/-- BLIT240(b): the direct copy of eight rows of 480 bytes (41_loader.md R257). -/
def blit240 (b : Nat) (fb sb : Memory) : Memory :=
  let src := (sb.readRange 0 3840).toArray
  fb.fill (480 * (8 * b)) 3840 (fun a => (src[a - 480 * (8 * b)]?).join)

/-- `BLITn(b)`, n the frame size (41_loader.md R253, R254). -/
def blit : Routine → Nat → Memory → Memory → Memory
  | .blit60, b, fb, sb => blit60 b fb sb
  | .blit120, b, fb, sb => blit120 b fb sb
  | .blit240, b, fb, sb => blit240 b fb sb

/-- The end of a LOAD step: `continue` before the last batch, `complete` after it (41_loader.md R254). -/
def loadAdvance (s : State) (r : Routine) : State :=
  if s.bidx.toNat + 1 < r.batches then stay { s with bidx := s.bidx + 1 }
  else complete { s with bidx := 0, fss := s.fss + 1, fbValid := true }

/-- A LOAD step whose read gave a whole batch: SB is written, the cursor advances, the batch is blitted (41_loader.md
R254). -/
def loadBatch (s : State) (r : Routine) (bytes : List Byte) : State :=
  let sb := s.sb.writeBytes 0 bytes
  loadAdvance
    { s with sb := sb, cursor := s.cursor + BitVec.ofNat 64 r.batchBytes, fb := blit r s.bidx.toNat s.fb sb } r

/-- A LOAD step whose read failed: no blit takes place, the SB bytes of the batch and the cursor are unspecified, and
`bidx`, `fss` and `fb_valid` stay (41_loader.md R263). -/
def loadLost (s : State) (r : Routine) : State :=
  loseCursor { s with sb := s.sb.forget 0 r.batchBytes }

/-- One LOAD step after its preconditions (41_loader.md R254). -/
def loadStep (s : State) (r : Routine) : State :=
  answered s <|
  match streamRead s r.batchBytes with
  | none => raise (loadLost (s.emit (.streamRead r.batchBytes none)) r) .readError (BitVec.ofNat 32 r.batchBytes)
  | some b =>
    let s1 := s.emit (.streamRead r.batchBytes (some b.length))
    if b.length < r.batchBytes then raise (loadLost s1 r) .shortRead (BitVec.ofNat 32 b.length)
    else loadBatch s1 r b

/-- Whether LOAD passes its four preconditions (41_loader.md R253). -/
def loadReady (s : State) : Bool :=
  decide (s.busMode = .storage) && s.streamOpen && s.hdrValid && decide (s.hdrEncoding = 1)

/-- The fault of the first precondition of LOAD that fails (41_loader.md R253). -/
def loadRefused (s : State) : State :=
  need (decide (s.busMode = .storage)) .busModeViolation (modeInfo s 0x30) s <|
  need s.streamOpen .noStream (wordInfo 0x30) s <|
  need s.hdrValid .noHeader (wordInfo 0x30) s <|
  raise s .unsupportedEncoding (wordInfo s.hdrEncoding)

/-- LOAD: one batch of the next frame (41_loader.md R253, R254). It stops where `hdr_size` selects no routine or the
batch lies outside FB, which the spec says cannot be. Safe: notes/assumptions/14.md. -/
def execLoad (s : State) : Host.Outcome State Fault Refusal :=
  if loadReady s then
    match routineOf s.hdrSize with
    | none => .fault .noRoutine
    | some r => if s.bidx.toNat < r.batches then .next (loadStep s r) else .fault .outOfBounds
  else .next (loadRefused s)

/-- LOOPCHK's seek to the byte after the header (41_loader.md R264). A failed seek writes nothing but the latch
(60_exceptions.md R403). DEDUCED, unsafe: notes/assumptions/6.md. -/
def loopSeek (s : State) : State :=
  answered s <|
  if s.draw.seeks then complete { s.emit (.streamSeek 8 true) with cursor := 8, fss := 0 }
  else raise (s.emit (.streamSeek 8 false)) .seekError 8

/-- LOOPCHK: wrap the stream at the loop point (41_loader.md R264). -/
def execLoopchk (s : State) : Host.Outcome State Fault Refusal :=
  .next <|
    need (decide (s.busMode = .storage)) .busModeViolation (modeInfo s 0x31) s <|
    need s.streamOpen .noStream (wordInfo 0x31) s <|
    need s.hdrValid .noHeader (wordInfo 0x31) s <|
    if s.fss = s.hdrCount then loopSeek s else complete s

end Sys2Proof.Machine
end

