-- ==== Sys2Proof/Machine/PlayLoop.lean ====
section
/-! DEFINITION. The PlayLoop ops (43_playloop.md): ITER.BEGIN, TE.RISE, TE.FALL, SETTLE, PRESENT, BL.ON2, PACE and
JMP. -/

namespace Sys2Proof.Machine

open Sys2Proof

/-- `min(iter + 1, 3)` (43_playloop.md R341, 10_state.md R45). -/
def nextIter (i : BitVec 2) : BitVec 2 := BitVec.ofNat 2 (min (i.toNat + 1) 3)

/-- ITER.BEGIN: start a PlayLoop iteration (43_playloop.md R341). -/
def execIterBegin (s : State) : Host.Outcome State Fault Refusal :=
  .next <| complete { s with iter := nextIter s.iter, tStart := s.now, tsValid := true, tePrev := 0b00 }

/-- `{1, s}`: the edge detector's memory after a sample (10_state.md R47). -/
def teSeen (sample : Bool) : BitVec 2 := 1#1 ++ BitVec.ofBool sample

/-- Whether a TE wait for the level `level` ends at this sample: under Strict the opposite level must have been seen
by the wait or before it, under Level the sample alone decides (43_playloop.md R343, R344). -/
def teDone (s : State) (level : Bool) : Bool :=
  match s.par.teEdgeMode with
  | .strict => decide (s.tePrev = teSeen (!level)) && (s.draw.te == level)
  | .level => s.draw.te == level

/-- One step of a TE wait: the sample is kept, and the op completes or holds (43_playloop.md R343, R344). -/
def teWait (s : State) (level : Bool) : State :=
  if teDone s level then complete { s with tePrev := teSeen s.draw.te } else stay { s with tePrev := teSeen s.draw.te }

/-- TE.RISE: wait for the rising edge of TE (43_playloop.md R343). -/
def execTeRise (s : State) : Host.Outcome State Fault Refusal := .next (teWait s true)

/-- TE.FALL: wait for the falling edge of TE (43_playloop.md R344). -/
def execTeFall (s : State) : Host.Outcome State Fault Refusal := .next (teWait s false)

/-- The first line of `Delay(len)`: a delay that is not running starts at this sample (43_playloop.md R345). -/
def delayStart (s : State) (t len : Micros) : State :=
  if s.dlyActive then s else { s with dlyT0 := t, dlyLen := len, dlyActive := true }

/-- One step of the delay primitive `Delay(len)` at the sample `t` (43_playloop.md R345). -/
def delayStep (s : State) (t len : Micros) : State :=
  let s1 := delayStart s t len
  if s1.dlyLen ≤ t - s1.dlyT0 then complete { s1 with dlyActive := false } else stay s1

/-- SETTLE: the settle delay after the falling edge (43_playloop.md R346). -/
def execSettle (s : State) : Host.Outcome State Fault Refusal := .next (delayStep s s.now (settleLen s))

/-- PRESENT: send the whole framebuffer to the display in ascending address order (43_playloop.md R347). -/
def execPresent (s : State) : Host.Outcome State Fault Refusal :=
  .next <|
    need (decide (s.busMode = .display)) .busModeViolation (modeInfo s 0x50) s <|
    need s.fbValid .fbUnwritten (wordInfo 0x50) s <|
    answered s <|
    let frame := s.fb.readRange 0 fbBytes
    if s.draw.presents then complete (s.emit (.dispPresent frame true))
    else raise (s.emit (.dispPresent frame false)) .presentError 0

/-- BL.ON2: enable the backlight in the second iteration (43_playloop.md R348). -/
def execBlOn2 (s : State) : Host.Outcome State Fault Refusal :=
  .next <|
    if s.iter = 2 then answered s <| complete { s.emit (.dispBacklight true) with backlight := true }
    else complete s

/-- The sleep PACE computes at the sample `t` (43_playloop.md R349): what is left of the budget, never negative. -/
def paceSleep (s : State) (t : Micros) : Micros :=
  let elapsed := t - s.tStart
  if elapsed ≤ s.budgetUs then s.budgetUs - elapsed else 0

/-- PACE: frame pacing (43_playloop.md R349). The preconditions are checked on the first step only. -/
def execPace (s : State) : Host.Outcome State Fault Refusal :=
  .next <|
    if s.dlyActive then delayStep s s.now 0
    else
      need s.rateValid .noRate (wordInfo 0x60) s <|
      need s.tsValid .noTimestamp (wordInfo 0x60) s <|
      delayStep { s with paceSleepUs := paceSleep s s.now } s.now (paceSleep s s.now)

/-- JMP t: unconditional jump (43_playloop.md R350). -/
def execJmp (t : Nat) (s : State) : Host.Outcome State Fault Refusal := .next (completeAt s (jumpTarget t))

end Sys2Proof.Machine
end

