-- ==== Sys2Proof/Machine/Dispatch.lean ====
section
/-! DEFINITION. One arm for each constructor of Instr: the meaning of each micro-op. -/

namespace Sys2Proof.Machine

open Sys2Proof

/-- One step of a micro-op at its current sub-state (42_boot.md R302). -/
def exec (i : Instr) (s : State) : Host.Outcome State Fault Refusal :=
  match i with
  | .spdS => Sys2Proof.Machine.execSpdS s
  | .spdD => Sys2Proof.Machine.execSpdD s
  | .select => Sys2Proof.Machine.execSelect s
  | .hdrRd => Sys2Proof.Machine.execHdrRd s
  | .hdrDec => Sys2Proof.Machine.execHdrDec s
  | .hdrAcc => Sys2Proof.Machine.execHdrAcc s
  | .rateQ => Sys2Proof.Machine.execRateQ s
  | .hint => Sys2Proof.Machine.execHint s
  | .load => Sys2Proof.Machine.execLoad s
  | .loopchk => Sys2Proof.Machine.execLoopchk s
  | .iterBegin => Sys2Proof.Machine.execIterBegin s
  | .teRise => Sys2Proof.Machine.execTeRise s
  | .teFall => Sys2Proof.Machine.execTeFall s
  | .settle => Sys2Proof.Machine.execSettle s
  | .present => Sys2Proof.Machine.execPresent s
  | .blOn2 => Sys2Proof.Machine.execBlOn2 s
  | .pace => Sys2Proof.Machine.execPace s
  | .jmp t => Sys2Proof.Machine.execJmp t s

end Sys2Proof.Machine
end

