-- ==== Sys2Proof/Machine/Fetch.lean ====
section
/-! DEFINITION. The fetch, the fault of an illegal word, and the reset input (42_boot.md R302, 70_reset_and_hazards.md
R452). -/

namespace Sys2Proof.Machine

open Sys2Proof

/-- `w = ROM[upc]`: one whole word, never misaligned (20_memory.md R88, 42_boot.md R302). -/
def fetch (s : State) : Byte := s.rom[s.upc.toNat]'(s.upc.isLt)

/-- `raise Fatal(ILLEGAL_OP, zext_32(w))` (30_encoding.md R133). -/
def illegalWord (s : State) (w : Byte) : State := raise s .illegalOp (wordInfo w)

/-- A step in which the external reset input is asserted: the reset of 70_reset_and_hazards.md R450. -/
def resetInput (s : State) : State := State.pass (blockReset s)

end Sys2Proof.Machine
end

