-- ==== Sys2Proof/Machine/Step.lean ====
section
/-! DEFINITION. One step of the machine (42_boot.md R302), and the state whose next step runs a given word. -/

namespace Sys2Proof.Machine

open Sys2Proof

/-- One sequencer step (42_boot.md R302). The reset input comes first (70_reset_and_hazards.md R452); in the Halted
state no step is taken (60_exceptions.md R405); an illegal word raises ILLEGAL_OP at the fetch (30_encoding.md R133);
any other word runs its op. DESIGN CHOICE on the reset input, unsafe: notes/assumptions/13.md. -/
def step (s : State) : Host.Outcome State Fault Refusal :=
  if s.draw.reset then .next (resetInput s)
  else if s.halted then .fault .halted
  else
    match decodeOp (fetch s) with
    | .illegal w => .next (illegalWord s w)
    | .op i => exec i s

/-- `s` with an instruction word where `step` fetches its next instruction: the ROM word at `upc`, the block not
halted and the reset input released in the draw of that step; nothing else changes. -/
def State.withFetchWord (s : State) (nbits w : Nat) : State :=
  { s with
    rom := s.rom.set s.upc.toNat (tableWord nbits w) s.upc.isLt
    halted := false
    script := { s.draw with reset := false } :: s.script.tail }

end Sys2Proof.Machine
end

