-- ==== Sys2Proof/Safety.lean ====
section
/-! DEFINITION. What counts as a legal state and a safe run, in the terms the statements use: the invariant of every
step, the invariant of the normative ROM, a healthy environment, and the parts of the state an op leaves alone. -/

namespace Sys2Proof.Machine

open Sys2Proof

/-- A playable container: the header the Codec accepts for playback (40_codec.md R213) and every frame it counts
(30_encoding.md R125). A longer file is playable too: the bytes after the last frame are never read (20_memory.md
R84). -/
def holdsFrames (file : List Byte) (r : Routine) (count : Nat) : Prop := 8 + count * r.frameBytes ≤ file.length

/-- The environment answers this step without a failure: no reset, every transaction answers Ok, and a read gives all
that was asked for and that the file holds (20_memory.md R102, 60_exceptions.md R431). -/
def healthyDraw (d : Draw) : Prop :=
  d.reset = false ∧ d.answers = true ∧ d.opens = true ∧ (∃ k, d.read = some k ∧ sbBytes ≤ k) ∧ d.seeks = true
    ∧ d.presents = true

/-- The draw of the step `k` steps from now. -/
def State.drawAhead (s : State) (k : Nat) : Draw := drawOf (s.script.drop k) (s.tick + k)

/-- `n` steps of one micro-op, each a next state. -/
def execTimes : Nat → Instr → State → Option State
  | 0, _, s => some s
  | n + 1, i, s =>
    match exec i s with
    | .next t => execTimes n i t
    | .fault _ => none
    | .refused _ => none

/-- The decoded op at `upc` is `i`. -/
def runs (s : State) (i : Instr) : Prop := decodeOp (fetch s) = .op i

/-- The rates the quantizer returns (10_state.md R41). -/
def quantizedRates : List Nat := [1, 2, 3, 4, 5, 6, 8, 10, 12, 15, 20, 24]

/-- What holds in every state a run can reach, under any ROM, any parameters and any environment. -/
structure State.Inv (s : State) : Prop where
  /-- FB is canonical and inside its 115,200 bytes (20_memory.md R80). -/
  fbWf : Memory.wf fbBytes s.fb = true
  /-- SB is canonical and inside its 4,096 bytes (20_memory.md R80). -/
  sbWf : Memory.wf sbBytes s.sb = true
  /-- Valid header registers are legal (10_state.md R40), and the batches below `bidx` are in FB (10_state.md R57). -/
  header : s.hdrValid = true →
    s.hdrVersion = 0 ∧ (s.hdrEncoding = 0 ∨ s.hdrEncoding = 1) ∧
      ∃ r, routineOf s.hdrSize = some r ∧ s.bidx.toNat < r.batches ∧
        ∀ a, a < s.bidx.toNat * r.fbBatchBytes → (Memory.read s.fb a).isSome = true
  /-- A LOAD in progress keeps `upc` at a LOAD word (41_loader.md R254). -/
  loading : s.bidx ≠ 0 → s.hdrValid = true ∧ runs s .load
  /-- `fb_valid` says that FB holds a whole frame (10_state.md R44). -/
  frame : s.fbValid = true → ∀ a, a < fbBytes → (Memory.read s.fb a).isSome = true
  /-- Valid rate registers are legal (10_state.md R41, 40_codec.md R208). -/
  rate : s.rateValid = true →
    s.rateQ.toNat ∈ quantizedRates ∧ s.budgetUs = BitVec.ofNat 32 (budget s.rateQ.toNat)
  /-- `dly_active` is 1 only while SETTLE or PACE holds (10_state.md R48). -/
  delay : s.dlyActive = true → runs s .settle ∨ runs s .pace
  /-- A TE sample is kept only with its valid bit (10_state.md R47). -/
  tePrev : s.tePrev ≠ 0b01
  /-- The block is halted exactly when the latch holds a fault (60_exceptions.md R400, R404). -/
  latch : s.halted = true ↔ s.faultCode ≠ 0
  /-- The backlight is on only from the second iteration on (10_state.md R50, 70_reset_and_hazards.md R475). -/
  backlight : s.backlight = true → 2 ≤ s.iter.toNat

/-- The invariant of the normative ROM (42_boot.md R300, R311; 41_loader.md R265): what each address of the ROM finds.
A state that is not halted meets it at the address its `upc` holds. -/
structure State.RomInv (s : State) : Prop where
  /-- The invariant of every step. -/
  inv : s.Inv
  /-- The ROM is the normative one. -/
  rom : s.rom = normativeRom
  /-- The ROM never reaches address 22 (10_state.md R32). -/
  upcLe : s.upc.toNat ≤ 21
  /-- A storage-class op finds storage speed (70_reset_and_hazards.md R470). -/
  storage : s.halted = false → (1 ≤ s.upc.toNat ∧ s.upc.toNat ≤ 8 ∨ 17 ≤ s.upc.toNat ∧ s.upc.toNat ≤ 19) →
    s.busMode = .storage
  /-- PRESENT finds display speed (70_reset_and_hazards.md R470). -/
  display : s.halted = false → (14 ≤ s.upc.toNat ∧ s.upc.toNat ≤ 16 ∨ 20 ≤ s.upc.toNat) → s.busMode = .display
  /-- SELECT precedes every stream op. -/
  stream : s.halted = false → 2 ≤ s.upc.toNat → s.streamOpen = true
  /-- HDR.RD precedes HDR.DEC. -/
  headerBytes : s.halted = false → 4 ≤ s.upc.toNat → s.hbufValid = true
  /-- HDR.DEC precedes every op that reads the header registers. -/
  headerRegs : s.halted = false → 5 ≤ s.upc.toNat → s.hdrValid = true
  /-- HDR.ACC lets only playable headers pass (40_codec.md R213). -/
  accepted : s.halted = false → 6 ≤ s.upc.toNat → s.hdrEncoding = 1 ∧ s.hdrCount ≠ 0
  /-- RATE.Q precedes HINT and PACE. -/
  rated : s.halted = false → 7 ≤ s.upc.toNat → s.rateValid = true
  /-- The prime LOAD precedes every PRESENT. -/
  primed : s.halted = false → 9 ≤ s.upc.toNat → s.fbValid = true
  /-- ITER.BEGIN precedes PACE. -/
  stamped : s.halted = false → 10 ≤ s.upc.toNat → s.tsValid = true
  /-- The header is read from offset 0 (42_boot.md R307). -/
  opened : s.halted = false → 2 ≤ s.upc.toNat → s.upc.toNat ≤ 3 → s.cursor = 0
  /-- After the header read the cursor stands behind the header. -/
  behindHeader : s.halted = false → 4 ≤ s.upc.toNat → s.upc.toNat ≤ 7 → s.cursor = 8
  /-- No frame is loaded before the prime LOAD has completed. -/
  unloaded : s.halted = false → 2 ≤ s.upc.toNat → s.upc.toNat ≤ 8 → s.fss = 0
  /-- After a LOAD between 1 and `hdr_count` frames are read since the seek (41_loader.md R265). -/
  counted : s.halted = false → (9 ≤ s.upc.toNat ∧ s.upc.toNat ≤ 17 ∨ 19 ≤ s.upc.toNat) →
    1 ≤ s.fss.toNat ∧ s.fss.toNat ≤ s.hdrCount.toNat
  /-- The LOAD behind LOOPCHK reads a frame the file counts (70_reset_and_hazards.md R474). -/
  beforeLast : s.halted = false → s.upc.toNat = 18 → s.fss.toNat < s.hdrCount.toNat
  /-- `cursor = 8 + fss * frame_bytes`, plus the batches of the LOAD in progress (41_loader.md R252, R265). -/
  cursorAt : s.halted = false → 8 ≤ s.upc.toNat → ∀ r, routineOf s.hdrSize = some r →
    s.cursor.toNat = 8 + s.fss.toNat * r.frameBytes + s.bidx.toNat * r.batchBytes

/-- The sequencer's latch and the halt bit are as before. -/
def SameLatch (s t : State) : Prop :=
  t.halted = s.halted ∧ t.faultCode = s.faultCode ∧ t.faultUpc = s.faultUpc ∧ t.faultInfo = s.faultInfo

/-- The stream registers and the open file are as before. -/
def SameStream (s t : State) : Prop :=
  t.streamOpen = s.streamOpen ∧ t.selIndex = s.selIndex ∧ t.cursor = s.cursor ∧ t.fss = s.fss ∧ t.file = s.file

/-- The header bytes are as before. -/
def SameHeaderBytes (s t : State) : Prop := t.hbufValid = s.hbufValid ∧ t.hdrBuf = s.hdrBuf

/-- The header registers are as before. -/
def SameHeaderRegs (s t : State) : Prop :=
  t.hdrValid = s.hdrValid ∧ t.hdrVersion = s.hdrVersion ∧ t.hdrEncoding = s.hdrEncoding ∧ t.hdrSize = s.hdrSize
    ∧ t.hdrRate = s.hdrRate ∧ t.hdrCount = s.hdrCount

/-- The rate registers are as before. -/
def SameRate (s t : State) : Prop :=
  t.rateValid = s.rateValid ∧ t.rateQ = s.rateQ ∧ t.budgetUs = s.budgetUs ∧ t.rateDiag = s.rateDiag

/-- The loader's registers are as before, and so is every byte of FB and SB. -/
def SameLoader (s t : State) : Prop :=
  t.bidx = s.bidx ∧ t.fbValid = s.fbValid ∧ (∀ a, Memory.read t.fb a = Memory.read s.fb a)
    ∧ ∀ a, Memory.read t.sb a = Memory.read s.sb a

/-- The iteration registers are as before. -/
def SameIteration (s t : State) : Prop := t.iter = s.iter ∧ t.tsValid = s.tsValid ∧ t.tStart = s.tStart

/-- The delay registers are as before. -/
def SameDelay (s t : State) : Prop :=
  t.dlyActive = s.dlyActive ∧ t.dlyT0 = s.dlyT0 ∧ t.dlyLen = s.dlyLen ∧ t.paceSleepUs = s.paceSleepUs

/-- The header, rate and hint registers are as before. -/
def SameCodec (s t : State) : Prop :=
  SameHeaderBytes s t ∧ SameHeaderRegs s t ∧ SameRate s t ∧ t.refreshHint = s.refreshHint

/-- The iteration, edge, delay and backlight registers are as before. -/
def SamePlay (s t : State) : Prop :=
  SameIteration s t ∧ t.tePrev = s.tePrev ∧ SameDelay s t ∧ t.backlight = s.backlight

/-- The ROM and the parameters are as before. -/
def SameFixed (s t : State) : Prop := t.rom = s.rom ∧ t.par = s.par

/-- The environment moved on by this one step: its time, the count of steps, and the draws to come. -/
def Passed (s t : State) : Prop :=
  t.time = s.time + s.draw.elapsed ∧ t.tick = s.tick + 1 ∧ t.script = s.script.tail

/-- The environment moved on by this one step, the ROM and the parameters are as before, and no fault was latched. -/
def Quiet (s t : State) : Prop := Passed s t ∧ SameFixed s t ∧ SameLatch s t

/-- The events of fatal faults in a record. -/
def fatals (es : List Event) : List FatalCode :=
  es.filterMap fun e =>
    match e with
    | .fatal c _ _ => some c
    | _ => none

/-- A row of the table of 95_test_vectors.md section 2.2: an inclusive range of raw rates, the quantized rate at each
size, and the diagnostic. -/
structure RateRow where
  lo    : Nat
  hi    : Nat
  at60  : Nat
  at120 : Nat
  at240 : Nat
  diag  : RateDiag
deriving DecidableEq, Repr

/-- The quantized rate of a row at a size. -/
def RateRow.at (row : RateRow) : Routine → Nat
  | .blit60 => row.at60
  | .blit120 => row.at120
  | .blit240 => row.at240

/-- The table of 95_test_vectors.md section 2.2, over every raw rate. -/
def rateTable : List RateRow :=
  [⟨0, 0, 1, 1, 1, .zeroRaised⟩, ⟨1, 1, 1, 1, 1, .none⟩, ⟨2, 2, 2, 2, 2, .none⟩, ⟨3, 3, 3, 3, 3, .none⟩,
   ⟨4, 4, 4, 4, 4, .none⟩, ⟨5, 5, 5, 5, 4, .none⟩, ⟨6, 6, 6, 6, 4, .none⟩, ⟨7, 8, 8, 8, 4, .none⟩,
   ⟨9, 11, 10, 10, 4, .none⟩, ⟨12, 13, 12, 12, 4, .none⟩, ⟨14, 16, 15, 12, 4, .none⟩, ⟨17, 18, 15, 12, 4, .tooHigh⟩,
   ⟨19, 21, 20, 12, 4, .none⟩, ⟨22, 26, 24, 12, 4, .none⟩, ⟨27, 255, 15, 12, 4, .tooHigh⟩]

/-- FB byte `j` of pixel (x, y), its address in FB (20_memory.md R81). -/
def pixelAddr (x y j : Nat) : Nat := 2 * (x + y * 240) + j

/-- Byte `j` of the source pixel of FB pixel (x, y), as an offset in its frame (41_loader.md R260). -/
def sourceOffset (r : Routine) (x y j : Nat) : Nat := 2 * (y / r.scale * r.side + x / r.scale) + j

/-- The first `rows` rows of FB are the upscaled frame that stands at offset `off` of the file (41_loader.md R260). -/
def showsRows (s : State) (r : Routine) (off rows : Nat) : Prop :=
  ∀ x y j, x < 240 → y < rows → j < 2 →
    Memory.read s.fb (pixelAddr x y j) = s.file[off + sourceOffset r x y j]?

/-- The invariant of the normative ROM together with what FB shows: between two LOADs frame `fss − 1` of the file, and
during a LOAD the rows of the batches done show frame `fss` (41_loader.md R266). -/
structure State.ShowInv (s : State) : Prop where
  /-- The invariant of the normative ROM. -/
  romInv : s.RomInv
  /-- A whole frame outside the LOADs. -/
  shown : s.halted = false → (9 ≤ s.upc.toNat ∧ s.upc.toNat ≤ 17 ∨ 19 ≤ s.upc.toNat) → ∀ r, routineOf s.hdrSize = some r →
    showsRows s r (8 + (s.fss.toNat - 1) * r.frameBytes) 240
  /-- The batches done of the LOAD in progress. -/
  partly : s.halted = false → (s.upc.toNat = 8 ∨ s.upc.toNat = 18) → ∀ r, routineOf s.hdrSize = some r →
    showsRows s r (8 + s.fss.toNat * r.frameBytes) (s.bidx.toNat * (r.rows * r.scale))

end Sys2Proof.Machine
end

