-- ==== Sys2Proof/Certificates/Slice0/Obligations.lean ====
section
/-! DEFINITION. The statements for the provers. Each docstring names the rule of spec/ it formalises. -/

open Sys2Proof Sys2Proof.Machine

/-! ### Encoding and the step -/

/-- 30_encoding.md R130 to R135: encoding a well-formed op and decoding the word gives the op back, with every jump
target; a word that decodes is the encoding of a well-formed op; every word is one byte long (R134). -/
def Obligations.DecodeEncodeRoundTrip : Prop :=
  (∀ i : Instr, i.wf = true → decodeOp (encode i) = .op i) ∧
  (∀ (w : Byte) (i : Instr), decodeOp w = .op i → i.wf = true ∧ encode i = w) ∧
  (∀ (i : Instr) (rest : List Byte), i.wf = true → decodeBytes (encode i :: rest) = .ok (i, rest))

/-- 30_encoding.md R133: exactly the listed words are illegal, and fetching one raises ILLEGAL_OP with the word as
info. The reset input is released (the model's choice of notes/assumptions/13.md) and the block is not halted. -/
def Obligations.IllegalWordsFaultAtFetch : Prop :=
  (∀ w : Byte, decodeOp w = .illegal w ↔
    let n := w.toNat
    n = 0x00 ∨ 0x03 ≤ n ∧ n ≤ 0x0F ∨ 0x11 ≤ n ∧ n ≤ 0x1F ∨ 0x25 ≤ n ∧ n ≤ 0x2F ∨ 0x32 ≤ n ∧ n ≤ 0x3F ∨
      0x44 ≤ n ∧ n ≤ 0x4F ∨ 0x52 ≤ n ∧ n ≤ 0x5F ∨ 0x61 ≤ n ∧ n ≤ 0xDF) ∧
  (∀ s : State, s.draw.reset = false → s.halted = false → decodeOp (fetch s) = .illegal (fetch s) →
    step s = .next (raise s .illegalOp (wordInfo (fetch s))))

/-- 30_encoding.md R131: words written out bit by bit decode to their ops. -/
def Obligations.SampleWordsDecode : Prop :=
  decodeOp 0b00000001#8 = .op .spdS ∧ decodeOp 0b00100001#8 = .op .hdrDec ∧ decodeOp 0b00110000#8 = .op .load ∧
  decodeOp 0b01000010#8 = .op .teFall ∧ decodeOp 0b01010001#8 = .op .blOn2 ∧ decodeOp 0b11101001#8 = .op (.jmp 9) ∧
  decodeOp 0b11011111#8 = .illegal 0xDF

/-- 42_boot.md R302: in the Halted state no step is taken (which the model's step says by the stop `halted`, the
model's choice of notes/assumptions/8.md), an illegal word raises ILLEGAL_OP, and any other word runs its op. The
premise on the reset input is the model's choice of notes/assumptions/13.md. -/
def Obligations.StepRunsTheDecodedOp : Prop :=
  ∀ s : State, s.draw.reset = false →
    (s.halted = true → step s = .fault .halted) ∧
    (s.halted = false → ∀ w, decodeOp (fetch s) = .illegal w → step s = .next (raise s .illegalOp (wordInfo w))) ∧
    (s.halted = false → ∀ i, decodeOp (fetch s) = .op i → step s = exec i s)

/-- A word placed where the step fetches runs its instruction (the model's `withFetchWord`, notes/assumptions/1.md):
from every state, halted or not and whatever the reset input, the next step is that instruction. -/
def Obligations.PlacedWordRunsNext : Prop :=
  ∀ (s : State) (w : Nat) (i : Instr), decodeTableWord 8 w = some i →
    fetch (s.withFetchWord 8 w) = BitVec.ofNat 8 w ∧ step (s.withFetchWord 8 w) = exec i (s.withFetchWord 8 w)

/-! ### The codec -/

/-- 40_codec.md R210, the round-trip law. -/
def Obligations.HeaderRoundTrip : Prop :=
  (∀ (h : Header) (p : RatePolicy), h.version = 0 → (h.encoding = 0 ∨ h.encoding = 1) →
    (h.size = 60 ∨ h.size = 120 ∨ h.size = 240) → (p = .strict → supportedRate h.size h.frameRate = true) →
    decodeHeader (encodeHeader h) p = .ok h) ∧
  (∀ (b : Vector Byte 8) (p : RatePolicy) (h : Header), decodeHeader b p = .ok h → encodeHeader h = b)

/-- 40_codec.md R216, the five cases of the mutation law: a header that decodes under Strict, with one byte replaced
by an illegal value. -/
def Obligations.HeaderMutationsAreNamed : Prop :=
  ∀ (b : Vector Byte 8) (h : Header), decodeHeader b .strict = .ok h → ∀ (p : RatePolicy) (v : Byte),
    (v ≠ 0x4C → decodeHeader (b.set 0 v) p = .err .badMagic) ∧
    (v ≠ 0x55 → decodeHeader (b.set 1 v) p = .err .badMagic) ∧
    (v ≠ 0 → decodeHeader (b.set 2 v) p = .err .badVersion) ∧
    (2 ≤ v.toNat → decodeHeader (b.set 3 v) p = .err .badEncoding) ∧
    (v ≠ 60 → v ≠ 120 → v ≠ 240 → decodeHeader (b.set 4 v) p = .err .badSize) ∧
    (supportedRate b[4] v = false → decodeHeader (b.set 5 v) .strict = .err .badFrameRate ∧
      ∃ h', decodeHeader (b.set 5 v) .lenient = .ok h' ∧ h'.frameRate = v)

/-- 40_codec.md R203: the frame-rate check runs only under Strict and only after the size check; under Lenient every
frame-rate byte passes. -/
def Obligations.RateCheckIsStrictOnly : Prop :=
  (∀ (b : Vector Byte 8) (p : RatePolicy), decodeHeader b p = .err .badFrameRate →
    p = .strict ∧ (b[4] = 60 ∨ b[4] = 120 ∨ b[4] = 240) ∧ supportedRate b[4] b[5] = false) ∧
  (∀ (b : Vector Byte 8) (h : Header), decodeHeader b .lenient = .ok h → ∀ v : Byte,
    decodeHeader (b.set 5 v) .lenient = .ok { h with frameRate := v })

/-- 40_codec.md R211: HDR.DEC writes the header registers on success, raises the fault of the first failing check
otherwise and then writes no header register. -/
def Obligations.HdrDecDecodesTheHeader : Prop :=
  ∀ s : State,
    (s.hbufValid = false → exec .hdrDec s = .next (raise s .noHeader 0x21)) ∧
    (s.hbufValid = true →
      (∀ e, decodeHeader s.hdrBuf s.par.ratePolicy = .err e →
        exec .hdrDec s = .next (raise s (headerFault s.hdrBuf e).1 (headerFault s.hdrBuf e).2)) ∧
      (∀ h, decodeHeader s.hdrBuf s.par.ratePolicy = .ok h →
        ∃ t, exec .hdrDec s = .next t ∧ t.hdrVersion = s.hdrBuf[2] ∧ t.hdrEncoding = s.hdrBuf[3] ∧
          t.hdrSize = s.hdrBuf[4] ∧ t.hdrRate = s.hdrBuf[5] ∧
          t.hdrCount.toNat = s.hdrBuf[6].toNat + 256 * s.hdrBuf[7].toNat ∧ t.hdrValid = true ∧ t.upc = s.upc + 1 ∧
          SameHeaderBytes s t ∧ SameRate s t ∧ t.refreshHint = s.refreshHint ∧ t.busMode = s.busMode ∧
          SameStream s t ∧ SameLoader s t ∧ SamePlay s t ∧ t.events = s.events ∧ Quiet s t))

/-- 40_codec.md R213: HDR.ACC accepts encoding 1 and a count that is not 0, checks in that order, and writes nothing
but `upc`. -/
def Obligations.HdrAccAcceptsPlayableHeaders : Prop :=
  ∀ s : State,
    (s.hdrValid = false → exec .hdrAcc s = .next (raise s .noHeader 0x22)) ∧
    (s.hdrValid = true → s.hdrEncoding ≠ 1 →
      exec .hdrAcc s = .next (raise s .unsupportedEncoding (wordInfo s.hdrEncoding))) ∧
    (s.hdrValid = true → s.hdrEncoding = 1 → s.hdrCount = 0 → exec .hdrAcc s = .next (raise s .zeroFrameCount 0)) ∧
    (s.hdrValid = true → s.hdrEncoding = 1 → s.hdrCount ≠ 0 →
      ∃ t, exec .hdrAcc s = .next t ∧ t.upc = s.upc + 1 ∧ SameCodec s t ∧ t.busMode = s.busMode ∧ SameStream s t ∧
        SameLoader s t ∧ SamePlay s t ∧ t.events = s.events ∧ Quiet s t)

/-- 40_codec.md R206, R207, R208, R214, and the table of 95_test_vectors.md section 2.2: RATE.Q latches the rate of
the table's row for the raw byte, at the size, the floored budget and the diagnostic. -/
def Obligations.RateQFollowsTheRateTable : Prop :=
  ∀ s : State,
    (s.hdrValid = false → exec .rateQ s = .next (raise s .noHeader 0x23)) ∧
    (s.hdrValid = true → ∀ r, routineOf s.hdrSize = some r → ∀ row ∈ rateTable,
      row.lo ≤ s.hdrRate.toNat → s.hdrRate.toNat ≤ row.hi →
        ∃ t, exec .rateQ s = .next t ∧ t.rateQ.toNat = row.at r ∧
          t.budgetUs.toNat = 1000000 / row.at r - 200 ∧ t.rateDiag = row.diag ∧ t.rateValid = true ∧
          t.upc = s.upc + 1 ∧ SameHeaderBytes s t ∧ SameHeaderRegs s t ∧ t.refreshHint = s.refreshHint ∧
          t.busMode = s.busMode ∧ SameStream s t ∧ SameLoader s t ∧ SamePlay s t ∧ t.events = s.events ∧ Quiet s t)

/-- 40_codec.md R206, R207, R208, R214: RATE.Q completes whatever `hdr_size` holds, legal or not: it latches a rate the
quantizer returns, its budget and the diagnostic, `upc` advances, and the rest stays. -/
def Obligations.RateQCompletesOnEverySize : Prop :=
  ∀ s : State, s.hdrValid = true →
    ∃ t, exec .rateQ s = .next t ∧ t.rateQ.toNat = (quantize s.hdrRate.toNat s.hdrSize).1 ∧
      t.rateQ.toNat ∈ quantizedRates ∧ t.budgetUs = BitVec.ofNat 32 (budget t.rateQ.toNat) ∧
      t.rateDiag = (quantize s.hdrRate.toNat s.hdrSize).2 ∧ t.rateValid = true ∧ t.upc = s.upc + 1 ∧
      SameHeaderBytes s t ∧ SameHeaderRegs s t ∧ t.refreshHint = s.refreshHint ∧ t.busMode = s.busMode ∧
      SameStream s t ∧ SameLoader s t ∧ SamePlay s t ∧ t.events = s.events ∧ Quiet s t

/-- 40_codec.md R209: the rate the quantizer returns is in S(size); it is the identity on S(60), S(120) and on the
members of S(240) up to 4, and clamps 5, 6 and 8 to 4 at size 240; every member of S(60) and S(120) is returned. -/
def Obligations.QuantizedRatesAreSupported : Prop :=
  ∀ (size rate : Byte), (size = 60 ∨ size = 120 ∨ size = 240) →
    supportedRate size (BitVec.ofNat 8 (quantize rate.toNat size).1) = true ∧
    (size = 240 → (quantize rate.toNat size).1 ∈ [1, 2, 3, 4]) ∧
    (supportedRate size rate = true →
      (quantize rate.toNat size).1 = if size = 240 then min rate.toNat 4 else rate.toNat) ∧
    (size = 240 → (1 ≤ rate.toNat ∧ rate.toNat ≤ 4) → (quantize rate.toNat size).1 = rate.toNat)

/-- 40_codec.md R215: HINT latches the table's value for (size, quantized rate) with its valid bit, or 0. The table is
a finite list (the model's choice of notes/assumptions/2.md). -/
def Obligations.HintLatchesTheTableValue : Prop :=
  ∀ s : State,
    (s.hdrValid = false → exec .hint s = .next (raise s .noHeader 0x24)) ∧
    (s.hdrValid = true → s.rateValid = false → exec .hint s = .next (raise s .noRate 0x24)) ∧
    (s.hdrValid = true → s.rateValid = true →
      ∃ t, exec .hint s = .next t ∧
        (lookupHint s.par s.hdrSize s.rateQ = none → t.refreshHint = 0) ∧
        (∀ v, lookupHint s.par s.hdrSize s.rateQ = some v → t.refreshHint.toNat = 65536 + v.toNat) ∧
        t.upc = s.upc + 1 ∧ SameHeaderBytes s t ∧ SameHeaderRegs s t ∧ SameRate s t ∧ t.busMode = s.busMode ∧
        SameStream s t ∧ SameLoader s t ∧ SamePlay s t ∧ t.events = s.events ∧ Quiet s t)

/-! ### The bus arbiter and the boot ops -/

/-- 42_boot.md R303, R304: SPD.S and SPD.D issue one BusSetSpeed whatever the bus mode was, discard the rate it
returns and set the mode; they complete only when the switch has answered (whether it answers is a draw, the model's
choice of notes/assumptions/3.md and 12.md). -/
def Obligations.SpeedSwitchesSetTheBusMode : Prop :=
  ∀ s : State,
    (s.draw.answers = true →
      (∃ t, exec .spdS s = .next t ∧ t.busMode = .storage ∧
        t.events = .busSetSpeed s.par.storageHz s.draw.actualHz :: s.events ∧ t.upc = s.upc + 1 ∧ SameCodec s t ∧
        SameStream s t ∧ SameLoader s t ∧ SamePlay s t ∧ Quiet s t) ∧
      (∃ t, exec .spdD s = .next t ∧ t.busMode = .display ∧
        t.events = .busSetSpeed s.par.displayHz s.draw.actualHz :: s.events ∧ t.upc = s.upc + 1 ∧ SameCodec s t ∧
        SameStream s t ∧ SameLoader s t ∧ SamePlay s t ∧ Quiet s t)) ∧
    (s.draw.answers = false → exec .spdS s = .next (stay s) ∧ exec .spdD s = .next (stay s))

/-- 42_boot.md R306: SELECT opens the candidate at `r mod n`, n the number of candidates cut to P_MAX_FILES, and
stands at offset 0; its faults in their order, each after the transactions before it and none later. How the list is
drawn is the model's choice of notes/assumptions/15.md, that the transactions answer is that of 12.md. -/
def Obligations.SelectOpensTheDrawnCandidate : Prop :=
  ∀ s : State,
    (s.busMode ≠ .storage → exec .select s = .next (raise s .busModeViolation (modeInfo s 0x10))) ∧
    (s.busMode = .storage → s.draw.answers = true →
      (dirEnumerate s = none → exec .select s = .next (raise (s.emit (.dirEnumerate false)) .enumError 0)) ∧
      (∀ list, dirEnumerate s = some list →
        let n := min list.length s.par.maxFiles
        let i := s.draw.rng.toNat % n
        let asked := (s.emit (.dirEnumerate true)).emit (.rngNext s.draw.rng)
        (n = 0 → exec .select s = .next (raise (s.emit (.dirEnumerate true)) .noFiles 0)) ∧
        (n ≠ 0 → s.draw.opens = false →
          exec .select s = .next (raise (asked.emit (.streamOpen i false)) .openError (BitVec.ofNat 32 i))) ∧
        (n ≠ 0 → s.draw.opens = true →
          ∃ t, exec .select s = .next t ∧ i < list.length ∧ t.selIndex.toNat = i ∧ t.streamOpen = true ∧ t.cursor = 0 ∧
            t.fss = 0 ∧ some t.file = list[i]? ∧ t.events = (asked.emit (.streamOpen i true)).events ∧
            t.upc = s.upc + 1 ∧ SameCodec s t ∧ t.busMode = s.busMode ∧ SameLoader s t ∧ SamePlay s t ∧ Quiet s t)))

/-- 42_boot.md R307: HDR.RD reads exactly 8 bytes at the cursor into `hdr_buf`; a failed or short read is fatal and
leaves the cursor at some value (20_memory.md R103). The count a device gives is at most what it draws and what the
file still holds (20_memory.md R102). The model's choices: notes/assumptions/6.md, 11.md and 12.md. -/
def Obligations.HdrRdReadsEightBytes : Prop :=
  ∀ s : State,
    (s.busMode ≠ .storage → exec .hdrRd s = .next (raise s .busModeViolation (modeInfo s 0x20))) ∧
    (s.busMode = .storage → s.streamOpen = false → exec .hdrRd s = .next (raise s .noStream 0x20)) ∧
    (s.busMode = .storage → s.streamOpen = true → s.draw.answers = true →
      (s.draw.read = none →
        ∃ c, exec .hdrRd s = .next (raise { s.emit (.streamRead 8 none) with cursor := c } .readError 8)) ∧
      (∀ k, s.draw.read = some k →
        let n := min (min k 8) (s.file.length - s.cursor.toNat)
        (n < 8 →
          ∃ c, exec .hdrRd s =
            .next (raise { s.emit (.streamRead 8 (some n)) with cursor := c } .shortRead (BitVec.ofNat 32 n))) ∧
        (n = 8 →
          ∃ t, exec .hdrRd s = .next t ∧ t.hbufValid = true ∧
            (∀ (j : Nat) (hj : j < 8), some (t.hdrBuf[j]'hj) = s.file[s.cursor.toNat + j]?) ∧
            t.cursor = s.cursor + 8 ∧ t.events = .streamRead 8 (some 8) :: s.events ∧ t.upc = s.upc + 1 ∧
            SameHeaderRegs s t ∧ SameRate s t ∧ t.refreshHint = s.refreshHint ∧ t.busMode = s.busMode ∧
            t.streamOpen = s.streamOpen ∧ t.selIndex = s.selIndex ∧ t.fss = s.fss ∧ t.file = s.file ∧
            SameLoader s t ∧ SamePlay s t ∧ Quiet s t)))

/-- 42_boot.md R305: an op of a bus class, found in the other mode or in Unset, raises BUS_MODE_VIOLATION with
`{bus_mode, w}` as info before any transaction; no other op ever raises it. -/
def Obligations.BusClassesNeedTheirMode : Prop :=
  ∀ s : State,
    (∀ i ∈ [Instr.select, Instr.hdrRd, Instr.load, Instr.loopchk], s.busMode ≠ .storage →
      exec i s = .next (raise s .busModeViolation (modeInfo s (encode i)))) ∧
    (s.busMode ≠ .display → exec .present s = .next (raise s .busModeViolation (modeInfo s (encode .present)))) ∧
    (∀ i, i ∉ [Instr.select, Instr.hdrRd, Instr.load, Instr.loopchk, Instr.present] →
      ∀ t, exec i s = .next t → fatals t.events ≠ .busModeViolation :: fatals s.events)

/-! ### The loader and the loop point -/

/-- 41_loader.md R255, R256: one batch of a replicating blit puts every source pixel of SB at its whole
`scale × scale` block, pixel by pixel as the rules' loops write it, and leaves the rest of FB. -/
def Obligations.BlitReplicatesEveryPixel : Prop :=
  ∀ (fb sb : Memory), Memory.wf fbBytes fb = true →
    (∀ b, b < 2 →
      (∀ lr sx dy dx j, lr < 30 → sx < 60 → dy < 4 → dx < 4 → j < 2 →
        Memory.read (blit60 b fb sb) (2 * ((4 * sx + dx) + 240 * (b * 30 * 4 + lr * 4 + dy)) + j) =
          Memory.read sb (2 * (lr * 60 + sx) + j)) ∧
      (∀ a, a < 57600 * b ∨ 57600 * (b + 1) ≤ a → Memory.read (blit60 b fb sb) a = Memory.read fb a)) ∧
    (∀ b, b < 8 →
      (∀ lr sx dy dx j, lr < 15 → sx < 120 → dy < 2 → dx < 2 → j < 2 →
        Memory.read (blit120 b fb sb) (2 * ((2 * sx + dx) + 240 * (b * 15 * 2 + lr * 2 + dy)) + j) =
          Memory.read sb (2 * (lr * 120 + sx) + j)) ∧
      (∀ a, a < 14400 * b ∨ 14400 * (b + 1) ≤ a → Memory.read (blit120 b fb sb) a = Memory.read fb a))

/-- 41_loader.md R257: one batch of the size-240 blit copies eight rows of 480 bytes and leaves the rest of FB. -/
def Obligations.BlitCopiesRowsAtFullSize : Prop :=
  ∀ (fb sb : Memory), Memory.wf fbBytes fb = true → ∀ b, b < 30 →
    (∀ lr k, lr < 8 → k < 480 →
      Memory.read (blit240 b fb sb) (480 * (8 * b + lr) + k) = Memory.read sb (480 * lr + k)) ∧
    (∀ a, a < 3840 * b ∨ 3840 * (b + 1) ≤ a → Memory.read (blit240 b fb sb) a = Memory.read fb a)

/-- 41_loader.md R253: LOAD's preconditions, in order, each with its fault; with a legal `hdr_size` and a batch inside FB
a LOAD that passes them answers a next state; and it stops by name only with an illegal `hdr_size` or a batch outside
FB, in states no run reaches (the model's choice of notes/assumptions/14.md). -/
def Obligations.LoadChecksItsPreconditions : Prop :=
  ∀ s : State,
    (s.busMode ≠ .storage → exec .load s = .next (raise s .busModeViolation (modeInfo s 0x30))) ∧
    (s.busMode = .storage → s.streamOpen = false → exec .load s = .next (raise s .noStream 0x30)) ∧
    (s.busMode = .storage → s.streamOpen = true → s.hdrValid = false →
      exec .load s = .next (raise s .noHeader 0x30)) ∧
    (s.busMode = .storage → s.streamOpen = true → s.hdrValid = true → s.hdrEncoding ≠ 1 →
      exec .load s = .next (raise s .unsupportedEncoding (wordInfo s.hdrEncoding))) ∧
    (loadReady s = true →
      (routineOf s.hdrSize = none → exec .load s = .fault .noRoutine) ∧
      (∀ r, routineOf s.hdrSize = some r → r.batches ≤ s.bidx.toNat → exec .load s = .fault .outOfBounds) ∧
      (∀ r, routineOf s.hdrSize = some r → s.bidx.toNat < r.batches → ∃ t, exec .load s = .next t)) ∧
    (∀ f, exec .load s = .fault f →
      loadReady s = true ∧
        (routineOf s.hdrSize = none ∨ ∃ r, routineOf s.hdrSize = some r ∧ r.batches ≤ s.bidx.toNat))

/-- 41_loader.md R254: a LOAD step whose read gives a whole batch writes SB, advances the cursor, puts the batch's
FB bytes at the nearest source pixel of the batch, and continues or completes. FB bytes outside the batch's range and
SB bytes above the batch stay. How a read answers is the model's choice of notes/assumptions/11.md and 12.md. -/
def Obligations.LoadStepMovesOneBatch : Prop :=
  ∀ (s : State) (r : Routine) (k : Nat), loadReady s = true → routineOf s.hdrSize = some r → s.bidx.toNat < r.batches →
    s.draw.answers = true → s.draw.read = some k → r.batchBytes ≤ k → s.cursor.toNat + r.batchBytes ≤ s.file.length →
    Memory.wf fbBytes s.fb = true → Memory.wf sbBytes s.sb = true →
    ∃ t, exec .load s = .next t ∧
      t.cursor = s.cursor + BitVec.ofNat 64 r.batchBytes ∧
      t.events = .streamRead r.batchBytes (some r.batchBytes) :: s.events ∧
      (∀ a, a < r.batchBytes → Memory.read t.sb a = s.file[s.cursor.toNat + a]?) ∧
      (∀ a, r.batchBytes ≤ a → Memory.read t.sb a = Memory.read s.sb a) ∧
      (∀ a, s.bidx.toNat * r.fbBatchBytes ≤ a → a < (s.bidx.toNat + 1) * r.fbBatchBytes →
        Memory.read t.fb a =
          s.file[s.cursor.toNat + blitSource r.side r.rows r.scale s.bidx.toNat a]?) ∧
      (∀ a, a < s.bidx.toNat * r.fbBatchBytes ∨ (s.bidx.toNat + 1) * r.fbBatchBytes ≤ a →
        Memory.read t.fb a = Memory.read s.fb a) ∧
      (s.bidx.toNat + 1 < r.batches →
        t.upc = s.upc ∧ t.bidx = s.bidx + 1 ∧ t.fss = s.fss ∧ t.fbValid = s.fbValid) ∧
      (s.bidx.toNat + 1 = r.batches → t.upc = s.upc + 1 ∧ t.bidx = 0 ∧ t.fss = s.fss + 1 ∧ t.fbValid = true) ∧
      SameCodec s t ∧ t.busMode = s.busMode ∧ t.streamOpen = s.streamOpen ∧ t.selIndex = s.selIndex ∧
      t.file = s.file ∧ SamePlay s t ∧ Quiet s t

/-- 41_loader.md R263: a LOAD step whose read fails or is short is fatal; no FB byte changes, `bidx`, `fss` and
`fb_valid` stay, the SB bytes of the batch have no value and the cursor is at some value. The response is Halt. The
model's choices: notes/assumptions/6.md, 7.md, 11.md and 12.md. -/
def Obligations.FailedBatchLeavesTheFrame : Prop :=
  ∀ (s : State) (r : Routine), loadReady s = true → routineOf s.hdrSize = some r → s.bidx.toNat < r.batches →
    s.draw.answers = true → s.par.fatalAction = .halt → Memory.wf sbBytes s.sb = true →
    ∀ n : Option Nat,
      (n = none ∧ s.draw.read = none ∨
        ∃ k, s.draw.read = some k ∧ n = some (min (min k r.batchBytes) (s.file.length - s.cursor.toNat)) ∧
          min (min k r.batchBytes) (s.file.length - s.cursor.toNat) < r.batchBytes) →
      ∃ t, exec .load s = .next t ∧ t.halted = true ∧ t.upc = s.upc ∧ t.faultUpc = s.upc ∧
        (n = none → t.faultCode = 0x13 ∧ t.faultInfo.toNat = r.batchBytes) ∧
        (∀ m, n = some m → t.faultCode = 0x14 ∧ t.faultInfo.toNat = m) ∧
        t.bidx = s.bidx ∧ t.fss = s.fss ∧ t.fbValid = s.fbValid ∧
        (∀ a, Memory.read t.fb a = Memory.read s.fb a) ∧
        (∀ a, a < r.batchBytes → Memory.read t.sb a = none) ∧
        (∀ a, r.batchBytes ≤ a → Memory.read t.sb a = Memory.read s.sb a) ∧
        SameCodec s t ∧ t.busMode = s.busMode ∧ SamePlay s t ∧ Passed s t ∧ SameFixed s t

/-- 41_loader.md R259, R260: from any FB, `batches` LOAD steps with a healthy device and a file that holds the frame
load it whole: every FB pixel is the source pixel at its coordinates divided by the scale, `cursor` advances by
`frame_bytes`, `fss` by 1, `fb_valid` is 1 and `bidx` is 0. A healthy device is the model's notion
(notes/assumptions/3.md, 11.md). -/
def Obligations.LoadUpscalesTheWholeFrame : Prop :=
  ∀ (s : State) (r : Routine), loadReady s = true → routineOf s.hdrSize = some r → s.bidx = 0 →
    (∀ k, k < r.batches → healthyDraw (s.drawAhead k)) → s.cursor.toNat + r.frameBytes ≤ s.file.length →
    s.file.length < 2 ^ 64 → Memory.wf fbBytes s.fb = true → Memory.wf sbBytes s.sb = true →
    ∃ t, execTimes r.batches .load s = some t ∧ showsRows t r s.cursor.toNat 240 ∧
      t.cursor.toNat = s.cursor.toNat + r.frameBytes ∧ t.fss = s.fss + 1 ∧ t.fbValid = true ∧ t.bidx = 0 ∧
      t.upc = s.upc + 1 ∧ t.halted = s.halted ∧ t.file = s.file

/-- 41_loader.md R264, 60_exceptions.md R403: LOOPCHK seeks to 8 exactly when `fss = hdr_count`, and otherwise writes
nothing and issues no transaction. A failed seek is fatal and writes nothing but the latch (the cursor stays:
notes/assumptions/6.md). That the seek answers is the model's choice of notes/assumptions/12.md. -/
def Obligations.LoopchkSeeksAtTheLoopPoint : Prop :=
  ∀ s : State,
    (s.busMode ≠ .storage → exec .loopchk s = .next (raise s .busModeViolation (modeInfo s 0x31))) ∧
    (s.busMode = .storage → s.streamOpen = false → exec .loopchk s = .next (raise s .noStream 0x31)) ∧
    (s.busMode = .storage → s.streamOpen = true → s.hdrValid = false →
      exec .loopchk s = .next (raise s .noHeader 0x31)) ∧
    (s.busMode = .storage → s.streamOpen = true → s.hdrValid = true →
      (s.fss ≠ s.hdrCount →
        ∃ t, exec .loopchk s = .next t ∧ t.events = s.events ∧ SameStream s t ∧ t.upc = s.upc + 1 ∧ SameCodec s t ∧
          t.busMode = s.busMode ∧ SameLoader s t ∧ SamePlay s t ∧ Quiet s t) ∧
      (s.fss = s.hdrCount → s.draw.answers = true → s.draw.seeks = true →
        ∃ t, exec .loopchk s = .next t ∧ t.events = .streamSeek 8 true :: s.events ∧ t.cursor = 8 ∧ t.fss = 0 ∧
          t.streamOpen = s.streamOpen ∧ t.selIndex = s.selIndex ∧ t.file = s.file ∧ t.upc = s.upc + 1 ∧ SameCodec s t ∧
          t.busMode = s.busMode ∧ SameLoader s t ∧ SamePlay s t ∧ Quiet s t) ∧
      (s.fss = s.hdrCount → s.draw.answers = true → s.draw.seeks = false →
        exec .loopchk s = .next (raise (s.emit (.streamSeek 8 false)) .seekError 8)))

/-! ### The PlayLoop ops -/

/-- 43_playloop.md R341: ITER.BEGIN counts the iteration up to 3, stamps the time and clears the edge detector. The
sample is the time after this step's draw of its advance (the model's choice of notes/assumptions/10.md). -/
def Obligations.IterBeginStampsTheIteration : Prop :=
  ∀ s : State, ∃ t, exec .iterBegin s = .next t ∧ t.iter.toNat = min (s.iter.toNat + 1) 3 ∧
    t.tStart.toNat = (s.time + s.draw.elapsed) % 2 ^ 32 ∧ t.tsValid = true ∧ t.tePrev = 0b00 ∧ t.upc = s.upc + 1 ∧
    SameCodec s t ∧ t.busMode = s.busMode ∧ SameStream s t ∧ SameLoader s t ∧ SameDelay s t ∧
    t.backlight = s.backlight ∧ t.events = s.events ∧ Quiet s t

/-- 43_playloop.md R343: one step of TE.RISE under either edge mode: what it keeps, and whether it completes or
holds. -/
def Obligations.TeRiseWaitsForTheRisingEdge : Prop :=
  ∀ s : State, ∃ t, exec .teRise s = .next t ∧
    (s.draw.te = true → t.tePrev = 0b11) ∧ (s.draw.te = false → t.tePrev = 0b10) ∧
    (s.par.teEdgeMode = .strict → s.tePrev = 0b10 ∧ s.draw.te = true → t.upc = s.upc + 1) ∧
    (s.par.teEdgeMode = .strict → ¬(s.tePrev = 0b10 ∧ s.draw.te = true) → t.upc = s.upc) ∧
    (s.par.teEdgeMode = .level → s.draw.te = true → t.upc = s.upc + 1) ∧
    (s.par.teEdgeMode = .level → s.draw.te = false → t.upc = s.upc) ∧
    SameCodec s t ∧ t.busMode = s.busMode ∧ SameStream s t ∧ SameLoader s t ∧ SameIteration s t ∧ SameDelay s t ∧
    t.backlight = s.backlight ∧ t.events = s.events ∧ Quiet s t

/-- 43_playloop.md R344: one step of TE.FALL under either edge mode: what it keeps, and whether it completes or
holds. -/
def Obligations.TeFallWaitsForTheFallingEdge : Prop :=
  ∀ s : State, ∃ t, exec .teFall s = .next t ∧
    (s.draw.te = true → t.tePrev = 0b11) ∧ (s.draw.te = false → t.tePrev = 0b10) ∧
    (s.par.teEdgeMode = .strict → s.tePrev = 0b11 ∧ s.draw.te = false → t.upc = s.upc + 1) ∧
    (s.par.teEdgeMode = .strict → ¬(s.tePrev = 0b11 ∧ s.draw.te = false) → t.upc = s.upc) ∧
    (s.par.teEdgeMode = .level → s.draw.te = false → t.upc = s.upc + 1) ∧
    (s.par.teEdgeMode = .level → s.draw.te = true → t.upc = s.upc) ∧
    SameCodec s t ∧ t.busMode = s.busMode ∧ SameStream s t ∧ SameLoader s t ∧ SameIteration s t ∧ SameDelay s t ∧
    t.backlight = s.backlight ∧ t.events = s.events ∧ Quiet s t

/-- 43_playloop.md R343, the Strict wait as a whole: if TE.RISE starts with the edge detector cleared, holds for `n`
steps and completes at the next, then the sample before was low and the last one high; so the first sample never
completes it. -/
def Obligations.StrictRiseSeesLowThenHigh : Prop :=
  ∀ (s : State) (n : Nat), s.par.teEdgeMode = .strict → s.tePrev = 0b00 →
    (∀ k, k ≤ n → ∃ u, execTimes k .teRise s = some u ∧ u.upc = s.upc) →
    ∀ t, execTimes (n + 1) .teRise s = some t → t.upc = s.upc + 1 →
      ∃ m, n = m + 1 ∧ (s.drawAhead m).te = false ∧ (s.drawAhead n).te = true

/-- 43_playloop.md R345, R346: one step of SETTLE. A delay that is not running starts at this sample with
P_SETTLE_US, where that fits in the 32 bits of `dly_len`; where it does not, nothing is said of the length it starts
with (a free value, the model's choice of notes/assumptions/17.md). The step completes when the sample is at least the
length behind the start, modulo 2^32, else it holds. The sample is the model's choice of notes/assumptions/10.md. -/
def Obligations.SettleDelaysByTheTimebase : Prop :=
  ∀ s : State, ∃ t, exec .settle s = .next t ∧
    (s.dlyActive = false → t.dlyT0 = s.now ∧ (s.par.settleUs < 2 ^ 32 → t.dlyLen.toNat = s.par.settleUs)) ∧
    (s.dlyActive = true → t.dlyT0 = s.dlyT0 ∧ t.dlyLen = s.dlyLen) ∧
    (t.dlyLen.toNat ≤ (s.now - t.dlyT0).toNat → t.upc = s.upc + 1 ∧ t.dlyActive = false) ∧
    ((s.now - t.dlyT0).toNat < t.dlyLen.toNat → t.upc = s.upc ∧ t.dlyActive = true) ∧
    (s.dlyActive = false → s.par.settleUs = 0 → t.upc = s.upc + 1) ∧
    t.paceSleepUs = s.paceSleepUs ∧ SameCodec s t ∧ t.busMode = s.busMode ∧ SameStream s t ∧ SameLoader s t ∧
    SameIteration s t ∧ t.tePrev = s.tePrev ∧ t.backlight = s.backlight ∧ t.events = s.events ∧ Quiet s t

/-- 43_playloop.md R347: PRESENT sends the 115,200 bytes of FB in ascending address order in one transaction and
writes nothing in the block; its faults in their order. That the display answers is the model's choice of
notes/assumptions/12.md. -/
def Obligations.PresentSendsTheWholeFramebuffer : Prop :=
  ∀ s : State,
    (s.busMode ≠ .display → exec .present s = .next (raise s .busModeViolation (modeInfo s 0x50))) ∧
    (s.busMode = .display → s.fbValid = false → exec .present s = .next (raise s .fbUnwritten 0x50)) ∧
    (s.busMode = .display → s.fbValid = true → s.draw.answers = true →
      ∃ frame, frame.length = 115200 ∧ (∀ a, a < 115200 → frame[a]? = some (Memory.read s.fb a)) ∧
        (s.draw.presents = false → exec .present s = .next (raise (s.emit (.dispPresent frame false)) .presentError 0)) ∧
        (s.draw.presents = true →
          ∃ t, exec .present s = .next t ∧ t.events = .dispPresent frame true :: s.events ∧ t.upc = s.upc + 1 ∧
            SameCodec s t ∧ t.busMode = s.busMode ∧ SameStream s t ∧ SameLoader s t ∧ SamePlay s t ∧ Quiet s t))

/-- 43_playloop.md R348: BL.ON2 turns the backlight on in iteration 2 and does nothing but complete in any other. That
the display answers is the model's choice of notes/assumptions/12.md. -/
def Obligations.BacklightComesOnInIterationTwo : Prop :=
  ∀ s : State,
    (s.iter = 2 → s.draw.answers = true →
      ∃ t, exec .blOn2 s = .next t ∧ t.backlight = true ∧ t.events = .dispBacklight true :: s.events ∧
        t.upc = s.upc + 1 ∧ SameCodec s t ∧ t.busMode = s.busMode ∧ SameStream s t ∧ SameLoader s t ∧
        SameIteration s t ∧ t.tePrev = s.tePrev ∧ SameDelay s t ∧ Quiet s t) ∧
    (s.iter ≠ 2 →
      ∃ t, exec .blOn2 s = .next t ∧ t.events = s.events ∧ t.upc = s.upc + 1 ∧ SameCodec s t ∧ t.busMode = s.busMode ∧
        SameStream s t ∧ SameLoader s t ∧ SamePlay s t ∧ Quiet s t)

/-- 43_playloop.md R349: the first step of PACE checks the rate and the time stamp, computes the sleep from the
elapsed time modulo 2^32, never negative, and starts the delay at the same sample; later steps only wait. The sample
is the model's choice of notes/assumptions/10.md. -/
def Obligations.PaceSleepsTheRestOfTheBudget : Prop :=
  ∀ s : State,
    (s.dlyActive = false → s.rateValid = false → exec .pace s = .next (raise s .noRate 0x60)) ∧
    (s.dlyActive = false → s.rateValid = true → s.tsValid = false → exec .pace s = .next (raise s .noTimestamp 0x60)) ∧
    (s.dlyActive = true ∨ s.rateValid = true ∧ s.tsValid = true →
      ∃ t, exec .pace s = .next t ∧
        (s.dlyActive = false →
          let elapsed := (s.now - s.tStart).toNat
          t.paceSleepUs.toNat = s.budgetUs.toNat - elapsed ∧ t.dlyT0 = s.now ∧ t.dlyLen = t.paceSleepUs ∧
            (s.budgetUs.toNat ≤ elapsed → t.upc = s.upc + 1)) ∧
        (s.dlyActive = true → t.paceSleepUs = s.paceSleepUs ∧ t.dlyT0 = s.dlyT0 ∧ t.dlyLen = s.dlyLen) ∧
        (t.dlyLen.toNat ≤ (s.now - t.dlyT0).toNat → t.upc = s.upc + 1 ∧ t.dlyActive = false) ∧
        ((s.now - t.dlyT0).toNat < t.dlyLen.toNat → t.upc = s.upc ∧ t.dlyActive = true) ∧
        SameCodec s t ∧ t.busMode = s.busMode ∧ SameStream s t ∧ SameLoader s t ∧ SameIteration s t ∧
        t.tePrev = s.tePrev ∧ t.backlight = s.backlight ∧ t.events = s.events ∧ Quiet s t)

/-- 43_playloop.md R352: if PACE finds the iteration no longer than its budget, it completes no earlier than the
budget after ITER.BEGIN's sample, however many steps it takes. `start` is the environment's time of that sample
(notes/assumptions/10.md). -/
def Obligations.PacingIsALowerBound : Prop :=
  ∀ (s : State) (n start : Nat), s.dlyActive = false → s.rateValid = true → s.tsValid = true →
    s.tStart = BitVec.ofNat 32 start → start ≤ s.timeNow → s.timeNow - start ≤ s.budgetUs.toNat →
    (∀ k, 1 ≤ k → k ≤ n → ∃ u, execTimes k .pace s = some u ∧ u.dlyActive = true) →
    ∀ t, execTimes (n + 1) .pace s = some t → t.dlyActive = false → start + s.budgetUs.toNat ≤ t.time

/-- 43_playloop.md R350: JMP sets `upc` to its target, for every target, and writes nothing else. -/
def Obligations.JmpSetsTheMicroAddress : Prop :=
  ∀ (s : State) (u : Nat), u ≤ 31 → ∃ t, exec (.jmp u) s = .next t ∧ t.upc.toNat = u ∧ SameCodec s t ∧
    t.busMode = s.busMode ∧ SameStream s t ∧ SameLoader s t ∧ SamePlay s t ∧ t.events = s.events ∧ Quiet s t

/-! ### Faults and reset -/

/-- 60_exceptions.md R400, R404, R405: fault entry writes the latch and leaves `upc`; under Halt it sets `halted` and
changes no other register, and no later step is taken (the stop `halted` is the model's choice of
notes/assumptions/8.md); under Reset every element R450 gives a value has it, no byte of FB or SB has one, and the fault
stands in the record (notes/assumptions/9.md). -/
def Obligations.FaultEntryHaltsOrResets : Prop :=
  ∀ (s : State) (c : FatalCode) (info : Word32),
    (s.par.fatalAction = .halt →
      let t := raise s c info
      t.faultCode = c.code ∧ t.faultUpc = s.upc ∧ t.faultInfo = info ∧ t.halted = true ∧ t.upc = s.upc ∧
        t.events = .fatal c s.upc info :: s.events ∧ SameCodec s t ∧ t.busMode = s.busMode ∧ SameStream s t ∧
        SameLoader s t ∧ SamePlay s t ∧ Passed s t ∧ SameFixed s t ∧ (t.draw.reset = false → step t = .fault .halted)) ∧
    (s.par.fatalAction = .reset →
      let t := raise s c info
      status t = 0 ∧ t.upc = 0 ∧ t.halted = false ∧ t.faultCode = 0 ∧ t.faultUpc = 0 ∧ t.faultInfo = 0 ∧
        t.events = .fatal c s.upc info :: s.events ∧ t.busMode = .unset ∧ t.streamOpen = false ∧ t.hbufValid = false ∧
        t.hdrValid = false ∧ t.rateValid = false ∧ t.fbValid = false ∧ t.tsValid = false ∧ t.dlyActive = false ∧
        t.cursor = 0 ∧ t.fss = 0 ∧ t.rateDiag = .none ∧ t.refreshHint = 0 ∧ t.bidx = 0 ∧ t.iter = 0 ∧ t.tePrev = 0 ∧
        t.paceSleepUs = 0 ∧ t.backlight = false ∧ (∀ a, Memory.read t.fb a = none) ∧ (∀ a, Memory.read t.sb a = none) ∧
        Passed s t ∧ SameFixed s t)

/-- 60_exceptions.md R403, the part on `upc`, with R402: whatever P_FATAL_ACTION says, an op raises at most one fault in
a step, and none leaves the latch as it was; one stands in the record with the address of the op (the record is the
model's choice of notes/assumptions/9.md), and under Halt the latch names the fault and that address. -/
def Obligations.EveryFaultIsPreciseInUpc : Prop :=
  ∀ (i : Instr) (s t : State), exec i s = .next t →
    (fatals t.events = fatals s.events ∧ SameLatch s t) ∨
    (∃ c info es, t.events = .fatal c s.upc info :: es ∧ fatals es = fatals s.events ∧
      (s.par.fatalAction = .halt →
        t.faultCode = c.code ∧ t.faultUpc = s.upc ∧ t.faultInfo = info ∧ t.upc = s.upc ∧ t.halted = true))

/-- 30_encoding.md R140, the numeric codes: the code of every fault; none has the code of NONE, and no two share one. -/
def Obligations.FaultCodesAreDistinct : Prop :=
  FatalCode.badMagic.code = 0x01 ∧ FatalCode.badVersion.code = 0x02 ∧ FatalCode.badEncoding.code = 0x03 ∧
  FatalCode.badSize.code = 0x04 ∧ FatalCode.badFrameRate.code = 0x05 ∧ FatalCode.noFiles.code = 0x10 ∧
  FatalCode.enumError.code = 0x11 ∧ FatalCode.openError.code = 0x12 ∧ FatalCode.readError.code = 0x13 ∧
  FatalCode.shortRead.code = 0x14 ∧ FatalCode.seekError.code = 0x15 ∧ FatalCode.presentError.code = 0x16 ∧
  FatalCode.zeroFrameCount.code = 0x20 ∧ FatalCode.unsupportedEncoding.code = 0x21 ∧
  FatalCode.busModeViolation.code = 0x30 ∧ FatalCode.illegalOp.code = 0x31 ∧ FatalCode.noStream.code = 0x32 ∧
  FatalCode.noHeader.code = 0x33 ∧ FatalCode.noRate.code = 0x34 ∧ FatalCode.noTimestamp.code = 0x35 ∧
  FatalCode.fbUnwritten.code = 0x36 ∧
  ∀ c d : FatalCode, c.code ≠ 0 ∧ (c.code = d.code → c = d)

/-- 70_reset_and_hazards.md R450, R452: a step in which the reset input is asserted, halted or not, gives every
element its reset value where the rule states one, and STATUS is 0, as it is in the state after reset. When the reset
input acts is the model's choice of notes/assumptions/13.md. -/
def Obligations.ResetInputResetsTheBlock : Prop :=
  (∀ s : State, s.draw.reset = true →
    ∃ t, step s = .next t ∧ status t = 0 ∧ t.upc = 0 ∧ t.halted = false ∧ t.faultCode = 0 ∧ t.faultUpc = 0 ∧
      t.faultInfo = 0 ∧ t.busMode = .unset ∧ t.streamOpen = false ∧ t.cursor = 0 ∧ t.fss = 0 ∧ t.hbufValid = false ∧
      t.hdrValid = false ∧ t.rateValid = false ∧ t.rateDiag = .none ∧ t.refreshHint = 0 ∧ t.bidx = 0 ∧
      t.fbValid = false ∧ t.iter = 0 ∧ t.tsValid = false ∧ t.tePrev = 0 ∧ t.dlyActive = false ∧ t.paceSleepUs = 0 ∧
      t.backlight = false ∧ (∀ a, Memory.read t.fb a = none) ∧ (∀ a, Memory.read t.sb a = none) ∧
      t.events = s.events ∧ Passed s t ∧ SameFixed s t) ∧
  status State.reset = 0 ∧ phase State.reset = some .init

/-- 10_state.md R53: every field of STATUS stands at its bits, the reserved bits read 0, and STATUS is 0 at reset. -/
def Obligations.StatusPacksItsFields : Prop :=
  status State.reset = 0 ∧ ∀ s : State,
    (status s).extractLsb' 0 5 = s.upc ∧ (status s).getLsbD 5 = s.halted ∧
    (status s).extractLsb' 6 2 = s.busMode.bits ∧ (status s).getLsbD 8 = s.backlight ∧
    (status s).getLsbD 9 = s.streamOpen ∧ (status s).getLsbD 10 = s.hdrValid ∧
    (status s).getLsbD 11 = s.rateValid ∧ (status s).getLsbD 12 = s.fbValid ∧
    (status s).extractLsb' 13 2 = s.iter ∧ (status s).extractLsb' 15 2 = s.rateDiag.bits ∧
    (status s).extractLsb' 17 7 = 0#7 ∧ (status s).extractLsb' 24 8 = s.faultCode

/-- 43_playloop.md R354: an op whose transaction does not answer, and whose checks pass, holds: it stays at `upc`,
issues no answered transaction, raises nothing and changes no register. That the whole op holds is the model's choice
of notes/assumptions/12.md. -/
def Obligations.UnansweredTransactionsHold : Prop :=
  ∀ s : State, s.draw.answers = false →
    exec .spdS s = .next (stay s) ∧ exec .spdD s = .next (stay s) ∧
    (s.busMode = .storage → exec .select s = .next (stay s)) ∧
    (s.busMode = .storage → s.streamOpen = true → exec .hdrRd s = .next (stay s)) ∧
    (∀ r, loadReady s = true → routineOf s.hdrSize = some r → s.bidx.toNat < r.batches →
      exec .load s = .next (stay s)) ∧
    (s.busMode = .storage → s.streamOpen = true → s.hdrValid = true → s.fss = s.hdrCount →
      exec .loopchk s = .next (stay s)) ∧
    (s.busMode = .display → s.fbValid = true → exec .present s = .next (stay s)) ∧
    (s.iter = 2 → exec .blOn2 s = .next (stay s)) ∧
    (let t := stay s
     t.upc = s.upc ∧ SameCodec s t ∧ t.busMode = s.busMode ∧ SameStream s t ∧ SameLoader s t ∧ SamePlay s t ∧
       t.events = s.events ∧ Quiet s t)

/-! ### The whole machine -/

/-- 20_memory.md R99, 10_state.md R54: no step writes the ROM or the parameters; 43_playloop.md R351: the
environment's time never moves back. Two clauses are on the model's own fields and no rule's: every step counts (the
choice of notes/assumptions/3.md), and the record only grows, through a reset too (that of notes/assumptions/9.md). -/
def Obligations.EveryStepKeepsRomAndParameters : Prop :=
  ∀ s t : State, step s = .next t →
    t.rom = s.rom ∧ t.par = s.par ∧ s.time ≤ t.time ∧ t.tick = s.tick + 1 ∧ ∃ es, t.events = es ++ s.events

/-- The writers that 10_state.md names, as long as no fault resets the block: FB, SB, `bidx` and `fb_valid` only by LOAD
(R56, R43, R44), the bus mode only by SPD.S and SPD.D (R35), the backlight only by BL.ON2 (R50), the header registers
only by HDR.DEC (R40), the rate registers only by RATE.Q (R41), the hint only by HINT (R42), the iteration registers
only by ITER.BEGIN (R45, R46), the header bytes only by HDR.RD (R39), the selection only by SELECT (R36), the delay
registers only by SETTLE and PACE (R48) and `pace_sleep_us` only by PACE (R49). The stream position, the edge detector
and the latch are those of StreamAndFaultRegistersHaveTheirWriters. -/
def Obligations.RegistersHaveTheirWriters : Prop :=
  ∀ (i : Instr) (s t : State), exec i s = .next t →
    s.par.fatalAction = .halt ∨ fatals t.events = fatals s.events →
    (i ≠ .load → t.fb = s.fb ∧ t.sb = s.sb ∧ t.bidx = s.bidx ∧ t.fbValid = s.fbValid) ∧
    (i ≠ .spdS → i ≠ .spdD → t.busMode = s.busMode) ∧
    (i ≠ .blOn2 → t.backlight = s.backlight) ∧
    (i ≠ .hdrDec → SameHeaderRegs s t) ∧
    (i ≠ .rateQ → SameRate s t) ∧
    (i ≠ .hint → t.refreshHint = s.refreshHint) ∧
    (i ≠ .iterBegin → SameIteration s t) ∧
    (i ≠ .hdrRd → SameHeaderBytes s t) ∧
    (i ≠ .select → t.selIndex = s.selIndex ∧ t.streamOpen = s.streamOpen ∧ t.file = s.file) ∧
    (i ≠ .settle → i ≠ .pace → SameDelay s t) ∧
    (i ≠ .pace → t.paceSleepUs = s.paceSleepUs)

/-- The state after reset meets the invariant, whatever the parameters, the ROM, the scripted draws and the time. -/
def Obligations.ResetMeetsTheInvariant : Prop :=
  ∀ (p : Params) (rom : Vector Byte 32) (script : List Draw) (time : Nat),
    State.Inv { State.reset with par := p, rom := rom, script := script, time := time }

/-- Every step keeps the invariant, under any ROM, any parameters and any environment: memories canonical and in
bounds, header and rate registers legal when valid, a LOAD and a delay in progress at their op, FB whole when
`fb_valid`, the halt bit and the latch together, the backlight off before the second iteration. -/
def Obligations.EveryStepKeepsTheInvariant : Prop :=
  ∀ s t : State, s.Inv → step s = .next t → t.Inv

/-- 60_exceptions.md R405, 41_loader.md R253, R262: from a state of the invariant the only stop is the Halted state,
whatever the ROM holds. That the Halted state answers the stop `halted` is the model's choice of notes/assumptions/8.md;
that the reset input acts first, in the Halted state too, is that of notes/assumptions/13.md. -/
def Obligations.OnlyTheHaltedStateStops : Prop :=
  ∀ s : State, s.Inv →
    (s.halted = true → s.draw.reset = false → step s = .fault .halted) ∧
    (s.halted = false ∨ s.draw.reset = true → ∃ t, step s = .next t)

/-- 70_reset_and_hazards.md R471: from a state of the invariant, a PRESENT that the block runs finds no LOAD in progress,
so no partly loaded FB, and PRESENT never sends a byte that no LOAD wrote. -/
def Obligations.PresentedFramesAreWhole : Prop :=
  ∀ s t : State, s.Inv → exec .present s = .next t →
    (runs s .present → s.bidx = 0) ∧
    ∀ frame ok, .dispPresent frame ok ∈ t.events →
      .dispPresent frame ok ∈ s.events ∨ frame.length = 115200 ∧ ∀ b ∈ frame, b.isSome = true

/-- The state after reset meets the invariant of the normative ROM, whatever the parameters, the scripted draws and
the time. -/
def Obligations.ResetMeetsTheRomInvariant : Prop :=
  ∀ (p : Params) (script : List Draw) (time : Nat),
    State.ShowInv { State.reset with par := p, script := script, time := time }

/-- Every step keeps the invariant of the normative ROM: the bus mode, the validity bits, `fss` and the cursor are at
each address what 42_boot.md R311 and 41_loader.md R265 say. -/
def Obligations.EveryStepKeepsTheRomInvariant : Prop :=
  ∀ s t : State, s.RomInv → step s = .next t → t.RomInv

/-- 42_boot.md R311, 60_exceptions.md R409: under the normative ROM, from reset, whatever the parameters and the
environment, no model-check fault (codes 0x30 to 0x36) is ever raised. -/
def Obligations.NormativeRomRaisesNoModelCheck : Prop :=
  ∀ (p : Params) (script : List Draw) (n : Nat) (t : State),
    Sys2Proof.core.run n { State.reset with par := p, script := script } = .next t →
    ∀ c ∈ fatals t.events, c.isModelCheck = false

/-- 41_loader.md R265, R266, 43_playloop.md R340: every step of the normative ROM keeps what FB shows, so that in the
PlayLoop FB holds the upscaled frame `fss − 1` of the file whenever PRESENT runs. That a read gives the file's bytes
rests on notes/assumptions/11.md; the premises on the answers and on the reset input are the model's choices of
notes/assumptions/12.md and 13.md. -/
def Obligations.PlayLoopPresentsTheCountedFrame : Prop :=
  (∀ s t : State, s.ShowInv → step s = .next t → t.ShowInv) ∧
  (∀ s : State, s.ShowInv → s.halted = false → s.upc.toNat = 14 → s.draw.reset = false → s.draw.answers = true →
    s.draw.presents = true →
    ∃ t frame r, step s = .next t ∧ t.events = .dispPresent frame true :: s.events ∧ routineOf s.hdrSize = some r ∧
      1 ≤ s.fss.toNat ∧ s.fss.toNat ≤ s.hdrCount.toNat ∧ frame.length = 115200 ∧
      ∀ x y j, x < 240 → y < 240 → j < 2 →
        frame[pixelAddr x y j]? =
          some (s.file[8 + (s.fss.toNat - 1) * r.frameBytes + sourceOffset r x y j]?))

/-- 41_loader.md R264, R265: at the LOOPCHK of the normative ROM, with a seek that answers and succeeds where one is
made, `fss` becomes `fss` modulo `hdr_count` and the cursor stands at that frame, one that the header counts. The
premises on the reset input and on the answer are the model's choices of notes/assumptions/13.md and 12.md. -/
def Obligations.LoopPointWrapsTheFrameIndex : Prop :=
  ∀ (s : State) (r : Routine), s.RomInv → s.halted = false → s.upc.toNat = 17 → routineOf s.hdrSize = some r →
    s.draw.reset = false → (s.fss = s.hdrCount → s.draw.answers = true ∧ s.draw.seeks = true) →
    ∃ t, step s = .next t ∧ t.upc.toNat = 18 ∧ t.fss.toNat = s.fss.toNat % s.hdrCount.toNat ∧
      t.hdrCount = s.hdrCount ∧ t.fss.toNat < t.hdrCount.toNat ∧
      t.cursor.toNat = 8 + (s.fss.toNat % s.hdrCount.toNat) * r.frameBytes

/-- 30_encoding.md R125, 70_reset_and_hazards.md R474: past the header, a file that holds the frames its header counts
and a healthy environment never fault: every step of the normative ROM from address 6 on is a next state with no new
fault, still past the header, with the same file and the same count of frames. The healthy environment is the model's
notion of notes/assumptions/3.md (with the answers of 12.md and the reset input of 13.md), and how the file's length
decides a read is that of notes/assumptions/11.md. -/
def Obligations.HealthyPlaybackNeverFaults : Prop :=
  ∀ (s : State) (r : Routine), s.RomInv → s.halted = false → 6 ≤ s.upc.toNat → routineOf s.hdrSize = some r →
    holdsFrames s.file r s.hdrCount.toNat → healthyDraw s.draw →
    ∃ t, step s = .next t ∧ t.halted = false ∧ fatals t.events = fatals s.events ∧ 6 ≤ t.upc.toNat ∧
      t.file = s.file ∧ t.hdrCount = s.hdrCount ∧ t.hdrSize = s.hdrSize

/-! ### Beside the statements above -/

/-- 42_boot.md R301: the source's state, and within PlayLoop its step, as a function of `upc`; Halted where the block is
halted. -/
def Obligations.PhaseFollowsTheMicroAddress : Prop :=
  ∀ s : State,
    (s.halted = true → phase s = some .halted) ∧
    (s.halted = false →
      let u := s.upc.toNat
      (u = 0 → phase s = some .init) ∧ (u = 1 → phase s = some .selectFile) ∧
      (2 ≤ u ∧ u ≤ 7 → phase s = some .loadHeader) ∧ (u = 8 → phase s = some .primeFirstFrame) ∧
      (9 ≤ u ∧ u ≤ 12 → phase s = some (.playLoop .step1)) ∧ (13 ≤ u ∧ u ≤ 15 → phase s = some (.playLoop .step2)) ∧
      (16 ≤ u ∧ u ≤ 18 → phase s = some (.playLoop .step3)) ∧ (u = 19 → phase s = some (.playLoop .step4)) ∧
      (u = 20 → phase s = some (.playLoop .step5)) ∧ (u = 21 → phase s = some (.playLoop .again)))

/-- 10_state.md R37, R38, R47, R33, R34: as long as no fault resets the block, `cursor` is written only by SELECT, HDR.RD,
LOAD and LOOPCHK, `fss` only by SELECT, LOAD and LOOPCHK, `te_prev` only by ITER.BEGIN, TE.RISE and TE.FALL; and a
step that raises no fault leaves `halted` and the fault latch. -/
def Obligations.StreamAndFaultRegistersHaveTheirWriters : Prop :=
  ∀ (i : Instr) (s t : State), exec i s = .next t →
    (s.par.fatalAction = .halt ∨ fatals t.events = fatals s.events →
      (i ∉ [Instr.select, Instr.hdrRd, Instr.load, Instr.loopchk] → t.cursor = s.cursor) ∧
      (i ∉ [Instr.select, Instr.load, Instr.loopchk] → t.fss = s.fss) ∧
      (i ∉ [Instr.iterBegin, Instr.teRise, Instr.teFall] → t.tePrev = s.tePrev)) ∧
    (fatals t.events = fatals s.events → SameLatch s t)

/-- 30_encoding.md R140, 40_codec.md R211: a header that fails to decode latches, under Halt, the code of its error and the
header bytes at fault as info, and no other register changes. -/
def Obligations.FormatErrorsLatchTheBytes : Prop :=
  ∀ (s : State) (e : HeaderError), s.hbufValid = true → s.par.fatalAction = .halt →
    decodeHeader s.hdrBuf s.par.ratePolicy = .err e →
    ∃ t, exec .hdrDec s = .next t ∧ t.halted = true ∧ t.upc = s.upc ∧ t.faultUpc = s.upc ∧
      (e = .badMagic → t.faultCode = 0x01 ∧ t.faultInfo.toNat = 256 * s.hdrBuf[0].toNat + s.hdrBuf[1].toNat) ∧
      (e = .badVersion → t.faultCode = 0x02 ∧ t.faultInfo.toNat = s.hdrBuf[2].toNat) ∧
      (e = .badEncoding → t.faultCode = 0x03 ∧ t.faultInfo.toNat = s.hdrBuf[3].toNat) ∧
      (e = .badSize → t.faultCode = 0x04 ∧ t.faultInfo.toNat = s.hdrBuf[4].toNat) ∧
      (e = .badFrameRate → t.faultCode = 0x05 ∧ t.faultInfo.toNat = 256 * s.hdrBuf[4].toNat + s.hdrBuf[5].toNat) ∧
      SameCodec s t ∧ t.busMode = s.busMode ∧ SameStream s t ∧ SameLoader s t ∧ SamePlay s t ∧ Passed s t ∧
      SameFixed s t

/-- 42_boot.md R311, 60_exceptions.md R409, the step: from every state of the normative ROM's invariant, a step raises no
model-check fault. -/
def Obligations.RomStepsRaiseNoModelCheck : Prop :=
  ∀ s t : State, s.RomInv → step s = .next t →
    ∀ c ∈ fatals t.events, c ∈ fatals s.events ∨ c.isModelCheck = false
end

