-- ==== Sys2Proof/Laws/Codec.lean ====
section
/-! SUPPORT. The small lemmas of the codec: the bytes of an encoded header, byte order, what an accepted header is. -/

namespace Sys2Proof.Machine

open Sys2Proof

theorem append_low (a b : Byte) : (a ++ b).extractLsb' 0 8 = b := by
  ext i hi
  simp only [BitVec.getElem_extractLsb', BitVec.getLsbD_append]
  simp [BitVec.getLsbD_eq_getElem, hi]

theorem append_high (a b : Byte) : (a ++ b).extractLsb' 8 8 = a := by
  ext i hi
  simp only [BitVec.getElem_extractLsb', BitVec.getLsbD_append]
  simp [BitVec.getLsbD_eq_getElem, hi]

theorem append_halves (v : BitVec 16) : v.extractLsb' 8 8 ++ v.extractLsb' 0 8 = v := by
  ext i hi
  simp only [BitVec.getElem_append, BitVec.getElem_extractLsb']
  split
  · simp [BitVec.getLsbD_eq_getElem, hi]
  · simp [show 8 + (i - 8) = i by omega, BitVec.getLsbD_eq_getElem, hi]

@[simp] theorem frameCountOf_encodeHeader (h : Header) : frameCountOf (encodeHeader h) = h.frameCount :=
  append_halves _

/-- `frame_count` is little-endian (20_memory.md R85). -/
theorem toNat_frameCountOf (b : Vector Byte 8) : (frameCountOf b).toNat = b[6].toNat + 256 * b[7].toNat := by
  have h := b[6].isLt
  unfold frameCountOf
  rw [BitVec.toNat_append, ← Nat.shiftLeft_add_eq_or_of_lt (by simpa using h), Nat.shiftLeft_eq]
  omega

/-- A header that decodes passed every check, and its record is its bytes. -/
theorem decodeHeader_ok {b : Vector Byte 8} {p : RatePolicy} {h : Header} (hd : decodeHeader b p = .ok h) :
    b[0] = 0x4C ∧ b[1] = 0x55 ∧ b[2] = 0 ∧ (b[3] = 0 ∨ b[3] = 1) ∧ (b[4] = 60 ∨ b[4] = 120 ∨ b[4] = 240) ∧
      (p = .strict → supportedRate b[4] b[5] = true) ∧
      h = { version := b[2], encoding := b[3], size := b[4], frameRate := b[5], frameCount := frameCountOf b } := by
  unfold decodeHeader at hd
  split_ifs at hd with h₁ h₂ h₃ h₄ h₅
  injection hd with hd
  refine ⟨by tauto, by tauto, by tauto, by tauto, by tauto, fun hp => ?_, hd.symm⟩
  cases hs : supportedRate b[4] b[5] with
  | true => rfl
  | false => exact absurd ⟨hp, hs⟩ h₅

/-- The eight header bytes of a list that holds them. -/
theorem getElem_headerBytes {b : List Byte} (h : 8 ≤ b.length) (j : Nat) (hj : j < 8) :
    some (headerBytes b)[j] = b[j]? := by
  have key : (headerBytes b)[j] = b.getD j 0 := by
    interval_cases j <;> rfl
  rw [key, List.getD_eq_getElem?_getD, List.getElem?_eq_getElem (by omega)]
  rfl

/-- The quantizer returns one of the twelve rates (10_state.md R41). -/
theorem quantize_mem (r : Nat) (size : Byte) :
    (quantize r size).1 ∈ [1, 2, 3, 4, 5, 6, 8, 10, 12, 15, 20, 24] := by
  have hb : (bucket r).1 ∈ [1, 2, 3, 4, 5, 6, 8, 10, 12, 15, 20, 24] := by
    unfold bucket
    split_ifs with h₁ h₂ <;> first | decide | skip
    obtain ⟨h, h'⟩ := h₂
    interval_cases r <;> decide
  have h12 : ∀ q ∈ [1, 2, 3, 4, 5, 6, 8, 10, 12, 15, 20, 24], min q 12 ∈ [1, 2, 3, 4, 5, 6, 8, 10, 12, 15, 20, 24] := by
    decide
  have h4 : ∀ q ∈ [1, 2, 3, 4, 5, 6, 8, 10, 12, 15, 20, 24], min q 4 ∈ [1, 2, 3, 4, 5, 6, 8, 10, 12, 15, 20, 24] := by
    decide
  unfold quantize
  dsimp only
  split_ifs
  · exact h4 _ (h12 _ hb)
  · exact h4 _ hb
  · exact h12 _ hb
  · exact hb

end Sys2Proof.Machine
end

