-- ==== Sys2Proof/Laws/Memory.lean ====
section
/-! SUPPORT. What the memory operations do: a read after a fill gives what the fill says inside it and the old byte
outside; every operation keeps the canonical form; a range is read byte by byte. -/

namespace Sys2Proof.Machine

open Sys2Proof

@[simp] theorem Memory.read_nil (a : Nat) : Memory.read [] a = none := rfl

theorem Memory.read_cons (k : Nat) (v : Byte) (m : Memory) (a : Nat) :
    Memory.read ((k, v) :: m) a = if k = a then some v else if a < k then none else Memory.read m a := rfl

theorem Memory.wfFrom_cons {lim lo k : Nat} {v : Byte} {m : Memory} :
    Memory.wfFrom lim lo ((k, v) :: m) = true ↔ lo ≤ k ∧ k < lim ∧ Memory.wfFrom lim (k + 1) m = true := by
  simp [Memory.wfFrom, and_assoc]

theorem Memory.wfFrom_mono {lim lo lo' : Nat} {m : Memory} (h : lo' ≤ lo) (hm : Memory.wfFrom lim lo m = true) :
    Memory.wfFrom lim lo' m = true := by
  cases m with
  | nil => rfl
  | cons c m =>
    obtain ⟨k, v⟩ := c
    rw [Memory.wfFrom_cons] at hm ⊢
    exact ⟨by omega, hm.2⟩

/-- An address below all listed ones has no value. -/
theorem Memory.read_below {lim lo a : Nat} {m : Memory} (hm : Memory.wfFrom lim lo m = true) (h : a < lo) :
    Memory.read m a = none := by
  cases m with
  | nil => rfl
  | cons c m =>
    obtain ⟨k, v⟩ := c
    rw [Memory.wfFrom_cons] at hm
    rw [Memory.read_cons, if_neg (by omega), if_pos (by omega)]

/-- An address outside the memory has no value. -/
theorem Memory.read_beyond {lim lo a : Nat} {m : Memory} (hm : Memory.wfFrom lim lo m = true) (h : lim ≤ a) :
    Memory.read m a = none := by
  induction m generalizing lo with
  | nil => rfl
  | cons c m ih =>
    obtain ⟨k, v⟩ := c
    rw [Memory.wfFrom_cons] at hm
    rw [Memory.read_cons, if_neg (by omega), if_neg (by omega)]
    exact ih hm.2.2

/-- Reading two memories one after the other, all addresses of the first below `p` and of the second not. -/
theorem Memory.read_append {m₁ m₂ : Memory} {p a : Nat} (h₁ : ∀ c ∈ m₁, c.1 < p) (h₂ : ∀ c ∈ m₂, p ≤ c.1) :
    Memory.read (m₁ ++ m₂) a = if a < p then Memory.read m₁ a else Memory.read m₂ a := by
  induction m₁ with
  | nil =>
    split
    next h =>
      cases m₂ with
      | nil => rfl
      | cons c m =>
        obtain ⟨k, v⟩ := c
        have := h₂ (k, v) (by simp)
        rw [List.nil_append, Memory.read_cons, if_neg (by simp at this; omega), if_pos (by simp at this; omega)]
        rfl
    next => rfl
  | cons c m ih =>
    obtain ⟨k, v⟩ := c
    have hk : k < p := h₁ (k, v) (by simp)
    have := ih (fun c hc => h₁ c (by simp [hc]))
    rw [List.cons_append, Memory.read_cons, Memory.read_cons, this]
    split_ifs <;> first | rfl | omega

theorem Memory.read_filter_lt {lim lo p a : Nat} {m : Memory} (hm : Memory.wfFrom lim lo m = true) (h : a < p) :
    Memory.read (m.filter fun c => decide (c.1 < p)) a = Memory.read m a := by
  induction m generalizing lo with
  | nil => rfl
  | cons c m ih =>
    obtain ⟨k, v⟩ := c
    rw [Memory.wfFrom_cons] at hm
    have ih := ih hm.2.2
    by_cases hk : k < p
    · rw [List.filter_cons_of_pos (by simpa using hk), Memory.read_cons, Memory.read_cons, ih]
    · rw [List.filter_cons_of_neg (by simpa using hk), ih, Memory.read_cons, if_neg (by omega), if_pos (by omega),
        Memory.read_below hm.2.2 (by omega)]

theorem Memory.read_filter_ge {p a : Nat} {m : Memory} (h : p ≤ a) :
    Memory.read (m.filter fun c => decide (p ≤ c.1)) a = Memory.read m a := by
  induction m with
  | nil => rfl
  | cons c m ih =>
    obtain ⟨k, v⟩ := c
    by_cases hk : p ≤ k
    · rw [List.filter_cons_of_pos (by simpa using hk), Memory.read_cons, Memory.read_cons, ih]
    · rw [List.filter_cons_of_neg (by simpa using hk), ih, Memory.read_cons, if_neg (by omega), if_neg (by omega)]

theorem cellsFrom_zero (f : Nat → Option Byte) (a : Nat) : cellsFrom f a 0 = [] := rfl

theorem cellsFrom_succ (f : Nat → Option Byte) (a n : Nat) :
    cellsFrom f a (n + 1) = (f a).toList.map (fun v => (a, v)) ++ cellsFrom f (a + 1) n := by
  unfold cellsFrom
  rw [List.range'_succ, List.filterMap_cons]
  cases f a <;> simp

theorem wfFrom_cellsFrom {lim : Nat} (f : Nat → Option Byte) (a n : Nat) (h : a + n ≤ lim) :
    Memory.wfFrom lim a (cellsFrom f a n) = true := by
  induction n generalizing a with
  | zero => rfl
  | succ n ih =>
    have := ih (a + 1) (by omega)
    rw [cellsFrom_succ]
    cases f a with
    | none => exact Memory.wfFrom_mono (by omega) this
    | some v => exact Memory.wfFrom_cons.2 ⟨by omega, by omega, this⟩

theorem mem_cellsFrom {f : Nat → Option Byte} {a n : Nat} {c : Host.Cell} (h : c ∈ cellsFrom f a n) :
    a ≤ c.1 ∧ c.1 < a + n := by
  unfold cellsFrom at h
  simp only [List.mem_filterMap, List.mem_range'_1, Option.map_eq_some_iff] at h
  obtain ⟨k, hk, v, -, rfl⟩ := h
  exact hk

theorem Memory.read_cellsFrom (f : Nat → Option Byte) (a n k : Nat) :
    Memory.read (cellsFrom f a n) k = if a ≤ k ∧ k < a + n then f k else none := by
  induction n generalizing a with
  | zero => simp [cellsFrom_zero]
  | succ n ih =>
    rw [cellsFrom_succ]
    cases hf : f a with
    | none =>
      simp only [Option.toList_none, List.map_nil, List.nil_append, ih]
      by_cases hk : k = a
      · subst hk; simp [hf]
      · split_ifs <;> first | rfl | omega
    | some v =>
      simp only [Option.toList_some, List.map_cons, List.map_nil, List.singleton_append]
      rw [Memory.read_cons, ih]
      by_cases hk : a = k
      · subst hk; simp [hf]
      · split_ifs <;> first | rfl | omega

/-- What a fill does to every byte: it says the bytes inside, and leaves the bytes outside. -/
theorem Memory.read_fill {lim base n a : Nat} {m : Memory} (f : Nat → Option Byte) (hm : Memory.wf lim m = true) :
    Memory.read (Memory.fill m base n f) a = if base ≤ a ∧ a < base + n then f a else Memory.read m a := by
  unfold Memory.fill
  rw [Memory.read_append (p := base + n), Memory.read_append (p := base), Memory.read_cellsFrom]
  · by_cases h1 : a < base
    · rw [if_pos (by omega), if_pos h1, Memory.read_filter_lt hm h1, if_neg (by omega)]
    · by_cases h2 : a < base + n
      · rw [if_pos h2, if_neg h1]
        split_ifs <;> first | rfl | omega
      · rw [if_neg h2, Memory.read_filter_ge (by omega), if_neg (by omega)]
  · intro c hc; simpa using (List.mem_filter.1 hc).2
  · intro c hc; exact (mem_cellsFrom hc).1
  · intro c hc
    rcases List.mem_append.1 hc with hc | hc
    · have := (List.mem_filter.1 hc).2
      simp only [decide_eq_true_eq] at this
      omega
    · exact (mem_cellsFrom hc).2
  · intro c hc; simpa using (List.mem_filter.1 hc).2

theorem Memory.wfFrom_append {lim lo p : Nat} {m₁ m₂ : Memory} (h₁ : Memory.wfFrom lim lo m₁ = true)
    (hlt : ∀ c ∈ m₁, c.1 < p) (h₂ : Memory.wfFrom lim p m₂ = true) (hp : lo ≤ p) :
    Memory.wfFrom lim lo (m₁ ++ m₂) = true := by
  induction m₁ generalizing lo with
  | nil => exact Memory.wfFrom_mono hp h₂
  | cons c m ih =>
    obtain ⟨k, v⟩ := c
    rw [Memory.wfFrom_cons] at h₁
    have hk : k < p := hlt (k, v) (by simp)
    exact Memory.wfFrom_cons.2 ⟨h₁.1, h₁.2.1, ih h₁.2.2 (fun c hc => hlt c (by simp [hc])) (by omega)⟩

theorem Memory.wfFrom_filter {lim lo : Nat} {m : Memory} (p : Host.Cell → Bool) (hm : Memory.wfFrom lim lo m = true) :
    Memory.wfFrom lim lo (m.filter p) = true := by
  induction m generalizing lo with
  | nil => rfl
  | cons c m ih =>
    obtain ⟨k, v⟩ := c
    rw [Memory.wfFrom_cons] at hm
    have ih := ih hm.2.2
    by_cases hp : p (k, v) = true
    · rw [List.filter_cons_of_pos hp]
      exact Memory.wfFrom_cons.2 ⟨hm.1, hm.2.1, ih⟩
    · rw [List.filter_cons_of_neg hp]
      exact Memory.wfFrom_mono (by omega) ih

theorem Memory.wfFrom_filter_ge {lim lo p : Nat} {m : Memory} (hm : Memory.wfFrom lim lo m = true) :
    Memory.wfFrom lim p (m.filter fun c => decide (p ≤ c.1)) = true := by
  induction m generalizing lo with
  | nil => rfl
  | cons c m ih =>
    obtain ⟨k, v⟩ := c
    rw [Memory.wfFrom_cons] at hm
    by_cases hk : p ≤ k
    · rw [List.filter_cons_of_pos (by simpa using hk)]
      exact Memory.wfFrom_cons.2 ⟨hk, hm.2.1, Memory.wfFrom_filter _ hm.2.2⟩
    · rw [List.filter_cons_of_neg (by simpa using hk)]
      exact ih hm.2.2

/-- A fill inside a memory keeps its canonical form. -/
theorem Memory.wf_fill {lim base n : Nat} {m : Memory} (f : Nat → Option Byte) (hm : Memory.wf lim m = true)
    (h : base + n ≤ lim) : Memory.wf lim (Memory.fill m base n f) = true := by
  unfold Memory.fill
  refine Memory.wfFrom_append (p := base + n) ?_ ?_ (Memory.wfFrom_filter_ge hm) (by omega)
  · refine Memory.wfFrom_append (p := base) (Memory.wfFrom_filter _ hm) ?_ (wfFrom_cellsFrom f base n h) (by omega)
    intro c hc; simpa using (List.mem_filter.1 hc).2
  · intro c hc
    rcases List.mem_append.1 hc with hc | hc
    · have := (List.mem_filter.1 hc).2
      simp only [decide_eq_true_eq] at this
      omega
    · exact (mem_cellsFrom hc).2

/-- What a write of a list of bytes does to every byte. -/
theorem Memory.read_writeBytes {lim a k : Nat} {m : Memory} (bytes : List Byte) (hm : Memory.wf lim m = true) :
    Memory.read (Memory.writeBytes m a bytes) k =
      if a ≤ k ∧ k < a + bytes.length then bytes[k - a]? else Memory.read m k := by
  unfold Memory.writeBytes
  simp only [Memory.read_fill _ hm, List.getElem?_toArray]

theorem Memory.wf_writeBytes {lim a : Nat} {m : Memory} (bytes : List Byte) (hm : Memory.wf lim m = true)
    (h : a + bytes.length ≤ lim) : Memory.wf lim (Memory.writeBytes m a bytes) = true :=
  Memory.wf_fill _ hm h

/-- The forgotten bytes have no value, and no other byte changes. -/
theorem Memory.read_forget {lim a n k : Nat} {m : Memory} (hm : Memory.wf lim m = true) :
    Memory.read (Memory.forget m a n) k = if a ≤ k ∧ k < a + n then none else Memory.read m k :=
  Memory.read_fill _ hm

theorem Memory.wf_forget {lim a n : Nat} {m : Memory} (hm : Memory.wf lim m = true) (h : a + n ≤ lim) :
    Memory.wf lim (Memory.forget m a n) = true :=
  Memory.wf_fill _ hm h

theorem Memory.read_dropWhile {m : Memory} {p a : Nat} (h : p ≤ a) :
    Memory.read (m.dropWhile fun c => decide (c.1 < p)) a = Memory.read m a := by
  induction m with
  | nil => rfl
  | cons c m ih =>
    obtain ⟨k, v⟩ := c
    by_cases hk : k < p
    · rw [List.dropWhile_cons_of_pos (by simpa using hk), ih, Memory.read_cons, if_neg (by omega), if_neg (by omega)]
    · rw [List.dropWhile_cons_of_neg (by simpa using hk)]

theorem Memory.collect_eq (n : Nat) (m : Memory) (a : Nat) (acc : List (Option Byte)) :
    Memory.collect n m a acc = acc.reverse ++ (List.range n).map fun i => Memory.read m (a + i) := by
  induction n generalizing m a acc with
  | zero => simp [Memory.collect]
  | succ n ih =>
    have key : ∀ k, a ≤ k → Memory.read (m.dropWhile fun c => decide (c.1 < a)) k = Memory.read m k :=
      fun k hk => Memory.read_dropWhile hk
    rw [List.range_succ_eq_map, List.map_cons, List.map_map, Memory.collect]
    generalize hd : m.dropWhile (fun c => decide (c.1 < a)) = d at key
    cases d with
    | nil =>
      have h0 := key a (Nat.le_refl a)
      simp only [ih, List.reverse_cons, List.append_assoc, List.singleton_append, Nat.add_zero, ← h0,
        Memory.read_nil]
      congr 2
      refine List.map_congr_left fun i _ => ?_
      rw [Function.comp, ← key (a + i.succ) (by omega), Memory.read_nil]
    | cons c d =>
      obtain ⟨k, v⟩ := c
      have hk : a ≤ k := by
        have := List.head_dropWhile_not (l := m) (fun c : Host.Cell => decide (c.1 < a)) (by rw [hd]; simp)
        simp only [hd, List.head_cons, decide_eq_false_iff_not] at this
        omega
      have h0 := key a (Nat.le_refl a)
      by_cases hka : k = a
      · subst hka
        rw [Memory.read_cons, if_pos rfl] at h0
        simp only [if_true, ih, List.reverse_cons, List.append_assoc, List.singleton_append, Nat.add_zero, ← h0]
        congr 2
        refine List.map_congr_left fun i _ => ?_
        rw [Function.comp, ← key (k + i.succ) (by omega), Memory.read_cons, if_neg (by omega), if_neg (by omega)]
        congr 1; omega
      · rw [Memory.read_cons, if_neg hka, if_pos (by omega)] at h0
        simp only [if_neg hka, ih, List.reverse_cons, List.append_assoc, List.singleton_append, Nat.add_zero, ← h0]
        congr 2
        refine List.map_congr_left fun i _ => ?_
        rw [Function.comp, ← key (a + i.succ) (by omega)]
        congr 1; omega

/-- A range is read byte by byte, in ascending order. -/
theorem Memory.readRange_eq (m : Memory) (a n : Nat) :
    Memory.readRange m a n = (List.range n).map fun i => Memory.read m (a + i) := by
  rw [Memory.readRange, Memory.collect_eq]; simp

@[simp] theorem Memory.length_readRange (m : Memory) (a n : Nat) : (Memory.readRange m a n).length = n := by
  simp [Memory.readRange_eq]

theorem Memory.getElem?_readRange (m : Memory) (a n i : Nat) :
    (Memory.readRange m a n)[i]? = if i < n then some (Memory.read m (a + i)) else none := by
  rw [Memory.readRange_eq]
  by_cases h : i < n
  · simp [h]
  · simp [h]

theorem reset_memory_wf :
    Memory.wf fbBytes State.reset.fb = true ∧ Memory.wf sbBytes State.reset.sb = true := by decide

end Sys2Proof.Machine
end

