-- ==== Sys2Proof/Laws/State.lean ====
section
/-! SUPPORT. One lemma for each field of State under each shared update, and for each shared operation one lemma that
says everything it can do. -/

namespace Sys2Proof.Machine

open Sys2Proof

@[simp] theorem pass_upc (s : State) : (State.pass s).upc = s.upc := rfl
@[simp] theorem pass_halted (s : State) : (State.pass s).halted = s.halted := rfl
@[simp] theorem pass_faultCode (s : State) : (State.pass s).faultCode = s.faultCode := rfl
@[simp] theorem pass_faultUpc (s : State) : (State.pass s).faultUpc = s.faultUpc := rfl
@[simp] theorem pass_faultInfo (s : State) : (State.pass s).faultInfo = s.faultInfo := rfl
@[simp] theorem pass_busMode (s : State) : (State.pass s).busMode = s.busMode := rfl
@[simp] theorem pass_streamOpen (s : State) : (State.pass s).streamOpen = s.streamOpen := rfl
@[simp] theorem pass_selIndex (s : State) : (State.pass s).selIndex = s.selIndex := rfl
@[simp] theorem pass_cursor (s : State) : (State.pass s).cursor = s.cursor := rfl
@[simp] theorem pass_fss (s : State) : (State.pass s).fss = s.fss := rfl
@[simp] theorem pass_hbufValid (s : State) : (State.pass s).hbufValid = s.hbufValid := rfl
@[simp] theorem pass_hdrBuf (s : State) : (State.pass s).hdrBuf = s.hdrBuf := rfl
@[simp] theorem pass_hdrValid (s : State) : (State.pass s).hdrValid = s.hdrValid := rfl
@[simp] theorem pass_hdrVersion (s : State) : (State.pass s).hdrVersion = s.hdrVersion := rfl
@[simp] theorem pass_hdrEncoding (s : State) : (State.pass s).hdrEncoding = s.hdrEncoding := rfl
@[simp] theorem pass_hdrSize (s : State) : (State.pass s).hdrSize = s.hdrSize := rfl
@[simp] theorem pass_hdrRate (s : State) : (State.pass s).hdrRate = s.hdrRate := rfl
@[simp] theorem pass_hdrCount (s : State) : (State.pass s).hdrCount = s.hdrCount := rfl
@[simp] theorem pass_rateValid (s : State) : (State.pass s).rateValid = s.rateValid := rfl
@[simp] theorem pass_rateQ (s : State) : (State.pass s).rateQ = s.rateQ := rfl
@[simp] theorem pass_budgetUs (s : State) : (State.pass s).budgetUs = s.budgetUs := rfl
@[simp] theorem pass_rateDiag (s : State) : (State.pass s).rateDiag = s.rateDiag := rfl
@[simp] theorem pass_refreshHint (s : State) : (State.pass s).refreshHint = s.refreshHint := rfl
@[simp] theorem pass_bidx (s : State) : (State.pass s).bidx = s.bidx := rfl
@[simp] theorem pass_fbValid (s : State) : (State.pass s).fbValid = s.fbValid := rfl
@[simp] theorem pass_iter (s : State) : (State.pass s).iter = s.iter := rfl
@[simp] theorem pass_tsValid (s : State) : (State.pass s).tsValid = s.tsValid := rfl
@[simp] theorem pass_tStart (s : State) : (State.pass s).tStart = s.tStart := rfl
@[simp] theorem pass_tePrev (s : State) : (State.pass s).tePrev = s.tePrev := rfl
@[simp] theorem pass_dlyActive (s : State) : (State.pass s).dlyActive = s.dlyActive := rfl
@[simp] theorem pass_dlyT0 (s : State) : (State.pass s).dlyT0 = s.dlyT0 := rfl
@[simp] theorem pass_dlyLen (s : State) : (State.pass s).dlyLen = s.dlyLen := rfl
@[simp] theorem pass_paceSleepUs (s : State) : (State.pass s).paceSleepUs = s.paceSleepUs := rfl
@[simp] theorem pass_backlight (s : State) : (State.pass s).backlight = s.backlight := rfl
@[simp] theorem pass_fb (s : State) : (State.pass s).fb = s.fb := rfl
@[simp] theorem pass_sb (s : State) : (State.pass s).sb = s.sb := rfl
@[simp] theorem pass_rom (s : State) : (State.pass s).rom = s.rom := rfl
@[simp] theorem pass_par (s : State) : (State.pass s).par = s.par := rfl
@[simp] theorem pass_file (s : State) : (State.pass s).file = s.file := rfl
@[simp] theorem pass_time (s : State) : (State.pass s).time = s.timeNow := rfl
@[simp] theorem pass_tick (s : State) : (State.pass s).tick = s.tick + 1 := rfl
@[simp] theorem pass_script (s : State) : (State.pass s).script = s.script.tail := rfl
@[simp] theorem pass_events (s : State) : (State.pass s).events = s.events := rfl

@[simp] theorem emit_upc (s : State) (e : Event) : (State.emit s e).upc = s.upc := rfl
@[simp] theorem emit_halted (s : State) (e : Event) : (State.emit s e).halted = s.halted := rfl
@[simp] theorem emit_faultCode (s : State) (e : Event) : (State.emit s e).faultCode = s.faultCode := rfl
@[simp] theorem emit_faultUpc (s : State) (e : Event) : (State.emit s e).faultUpc = s.faultUpc := rfl
@[simp] theorem emit_faultInfo (s : State) (e : Event) : (State.emit s e).faultInfo = s.faultInfo := rfl
@[simp] theorem emit_busMode (s : State) (e : Event) : (State.emit s e).busMode = s.busMode := rfl
@[simp] theorem emit_streamOpen (s : State) (e : Event) : (State.emit s e).streamOpen = s.streamOpen := rfl
@[simp] theorem emit_selIndex (s : State) (e : Event) : (State.emit s e).selIndex = s.selIndex := rfl
@[simp] theorem emit_cursor (s : State) (e : Event) : (State.emit s e).cursor = s.cursor := rfl
@[simp] theorem emit_fss (s : State) (e : Event) : (State.emit s e).fss = s.fss := rfl
@[simp] theorem emit_hbufValid (s : State) (e : Event) : (State.emit s e).hbufValid = s.hbufValid := rfl
@[simp] theorem emit_hdrBuf (s : State) (e : Event) : (State.emit s e).hdrBuf = s.hdrBuf := rfl
@[simp] theorem emit_hdrValid (s : State) (e : Event) : (State.emit s e).hdrValid = s.hdrValid := rfl
@[simp] theorem emit_hdrVersion (s : State) (e : Event) : (State.emit s e).hdrVersion = s.hdrVersion := rfl
@[simp] theorem emit_hdrEncoding (s : State) (e : Event) : (State.emit s e).hdrEncoding = s.hdrEncoding := rfl
@[simp] theorem emit_hdrSize (s : State) (e : Event) : (State.emit s e).hdrSize = s.hdrSize := rfl
@[simp] theorem emit_hdrRate (s : State) (e : Event) : (State.emit s e).hdrRate = s.hdrRate := rfl
@[simp] theorem emit_hdrCount (s : State) (e : Event) : (State.emit s e).hdrCount = s.hdrCount := rfl
@[simp] theorem emit_rateValid (s : State) (e : Event) : (State.emit s e).rateValid = s.rateValid := rfl
@[simp] theorem emit_rateQ (s : State) (e : Event) : (State.emit s e).rateQ = s.rateQ := rfl
@[simp] theorem emit_budgetUs (s : State) (e : Event) : (State.emit s e).budgetUs = s.budgetUs := rfl
@[simp] theorem emit_rateDiag (s : State) (e : Event) : (State.emit s e).rateDiag = s.rateDiag := rfl
@[simp] theorem emit_refreshHint (s : State) (e : Event) : (State.emit s e).refreshHint = s.refreshHint := rfl
@[simp] theorem emit_bidx (s : State) (e : Event) : (State.emit s e).bidx = s.bidx := rfl
@[simp] theorem emit_fbValid (s : State) (e : Event) : (State.emit s e).fbValid = s.fbValid := rfl
@[simp] theorem emit_iter (s : State) (e : Event) : (State.emit s e).iter = s.iter := rfl
@[simp] theorem emit_tsValid (s : State) (e : Event) : (State.emit s e).tsValid = s.tsValid := rfl
@[simp] theorem emit_tStart (s : State) (e : Event) : (State.emit s e).tStart = s.tStart := rfl
@[simp] theorem emit_tePrev (s : State) (e : Event) : (State.emit s e).tePrev = s.tePrev := rfl
@[simp] theorem emit_dlyActive (s : State) (e : Event) : (State.emit s e).dlyActive = s.dlyActive := rfl
@[simp] theorem emit_dlyT0 (s : State) (e : Event) : (State.emit s e).dlyT0 = s.dlyT0 := rfl
@[simp] theorem emit_dlyLen (s : State) (e : Event) : (State.emit s e).dlyLen = s.dlyLen := rfl
@[simp] theorem emit_paceSleepUs (s : State) (e : Event) : (State.emit s e).paceSleepUs = s.paceSleepUs := rfl
@[simp] theorem emit_backlight (s : State) (e : Event) : (State.emit s e).backlight = s.backlight := rfl
@[simp] theorem emit_fb (s : State) (e : Event) : (State.emit s e).fb = s.fb := rfl
@[simp] theorem emit_sb (s : State) (e : Event) : (State.emit s e).sb = s.sb := rfl
@[simp] theorem emit_rom (s : State) (e : Event) : (State.emit s e).rom = s.rom := rfl
@[simp] theorem emit_par (s : State) (e : Event) : (State.emit s e).par = s.par := rfl
@[simp] theorem emit_file (s : State) (e : Event) : (State.emit s e).file = s.file := rfl
@[simp] theorem emit_time (s : State) (e : Event) : (State.emit s e).time = s.time := rfl
@[simp] theorem emit_tick (s : State) (e : Event) : (State.emit s e).tick = s.tick := rfl
@[simp] theorem emit_script (s : State) (e : Event) : (State.emit s e).script = s.script := rfl
@[simp] theorem emit_events (s : State) (e : Event) : (State.emit s e).events = e :: s.events := rfl

@[simp] theorem complete_upc (s : State) : (complete s).upc = s.upc + 1 := rfl
@[simp] theorem complete_halted (s : State) : (complete s).halted = s.halted := rfl
@[simp] theorem complete_faultCode (s : State) : (complete s).faultCode = s.faultCode := rfl
@[simp] theorem complete_faultUpc (s : State) : (complete s).faultUpc = s.faultUpc := rfl
@[simp] theorem complete_faultInfo (s : State) : (complete s).faultInfo = s.faultInfo := rfl
@[simp] theorem complete_busMode (s : State) : (complete s).busMode = s.busMode := rfl
@[simp] theorem complete_streamOpen (s : State) : (complete s).streamOpen = s.streamOpen := rfl
@[simp] theorem complete_selIndex (s : State) : (complete s).selIndex = s.selIndex := rfl
@[simp] theorem complete_cursor (s : State) : (complete s).cursor = s.cursor := rfl
@[simp] theorem complete_fss (s : State) : (complete s).fss = s.fss := rfl
@[simp] theorem complete_hbufValid (s : State) : (complete s).hbufValid = s.hbufValid := rfl
@[simp] theorem complete_hdrBuf (s : State) : (complete s).hdrBuf = s.hdrBuf := rfl
@[simp] theorem complete_hdrValid (s : State) : (complete s).hdrValid = s.hdrValid := rfl
@[simp] theorem complete_hdrVersion (s : State) : (complete s).hdrVersion = s.hdrVersion := rfl
@[simp] theorem complete_hdrEncoding (s : State) : (complete s).hdrEncoding = s.hdrEncoding := rfl
@[simp] theorem complete_hdrSize (s : State) : (complete s).hdrSize = s.hdrSize := rfl
@[simp] theorem complete_hdrRate (s : State) : (complete s).hdrRate = s.hdrRate := rfl
@[simp] theorem complete_hdrCount (s : State) : (complete s).hdrCount = s.hdrCount := rfl
@[simp] theorem complete_rateValid (s : State) : (complete s).rateValid = s.rateValid := rfl
@[simp] theorem complete_rateQ (s : State) : (complete s).rateQ = s.rateQ := rfl
@[simp] theorem complete_budgetUs (s : State) : (complete s).budgetUs = s.budgetUs := rfl
@[simp] theorem complete_rateDiag (s : State) : (complete s).rateDiag = s.rateDiag := rfl
@[simp] theorem complete_refreshHint (s : State) : (complete s).refreshHint = s.refreshHint := rfl
@[simp] theorem complete_bidx (s : State) : (complete s).bidx = s.bidx := rfl
@[simp] theorem complete_fbValid (s : State) : (complete s).fbValid = s.fbValid := rfl
@[simp] theorem complete_iter (s : State) : (complete s).iter = s.iter := rfl
@[simp] theorem complete_tsValid (s : State) : (complete s).tsValid = s.tsValid := rfl
@[simp] theorem complete_tStart (s : State) : (complete s).tStart = s.tStart := rfl
@[simp] theorem complete_tePrev (s : State) : (complete s).tePrev = s.tePrev := rfl
@[simp] theorem complete_dlyActive (s : State) : (complete s).dlyActive = s.dlyActive := rfl
@[simp] theorem complete_dlyT0 (s : State) : (complete s).dlyT0 = s.dlyT0 := rfl
@[simp] theorem complete_dlyLen (s : State) : (complete s).dlyLen = s.dlyLen := rfl
@[simp] theorem complete_paceSleepUs (s : State) : (complete s).paceSleepUs = s.paceSleepUs := rfl
@[simp] theorem complete_backlight (s : State) : (complete s).backlight = s.backlight := rfl
@[simp] theorem complete_fb (s : State) : (complete s).fb = s.fb := rfl
@[simp] theorem complete_sb (s : State) : (complete s).sb = s.sb := rfl
@[simp] theorem complete_rom (s : State) : (complete s).rom = s.rom := rfl
@[simp] theorem complete_par (s : State) : (complete s).par = s.par := rfl
@[simp] theorem complete_file (s : State) : (complete s).file = s.file := rfl
@[simp] theorem complete_time (s : State) : (complete s).time = s.timeNow := rfl
@[simp] theorem complete_tick (s : State) : (complete s).tick = s.tick + 1 := rfl
@[simp] theorem complete_script (s : State) : (complete s).script = s.script.tail := rfl
@[simp] theorem complete_events (s : State) : (complete s).events = s.events := rfl

@[simp] theorem completeAt_upc (s : State) (t : Addr) : (completeAt s t).upc = t := rfl
@[simp] theorem completeAt_halted (s : State) (t : Addr) : (completeAt s t).halted = s.halted := rfl
@[simp] theorem completeAt_faultCode (s : State) (t : Addr) : (completeAt s t).faultCode = s.faultCode := rfl
@[simp] theorem completeAt_faultUpc (s : State) (t : Addr) : (completeAt s t).faultUpc = s.faultUpc := rfl
@[simp] theorem completeAt_faultInfo (s : State) (t : Addr) : (completeAt s t).faultInfo = s.faultInfo := rfl
@[simp] theorem completeAt_busMode (s : State) (t : Addr) : (completeAt s t).busMode = s.busMode := rfl
@[simp] theorem completeAt_streamOpen (s : State) (t : Addr) : (completeAt s t).streamOpen = s.streamOpen := rfl
@[simp] theorem completeAt_selIndex (s : State) (t : Addr) : (completeAt s t).selIndex = s.selIndex := rfl
@[simp] theorem completeAt_cursor (s : State) (t : Addr) : (completeAt s t).cursor = s.cursor := rfl
@[simp] theorem completeAt_fss (s : State) (t : Addr) : (completeAt s t).fss = s.fss := rfl
@[simp] theorem completeAt_hbufValid (s : State) (t : Addr) : (completeAt s t).hbufValid = s.hbufValid := rfl
@[simp] theorem completeAt_hdrBuf (s : State) (t : Addr) : (completeAt s t).hdrBuf = s.hdrBuf := rfl
@[simp] theorem completeAt_hdrValid (s : State) (t : Addr) : (completeAt s t).hdrValid = s.hdrValid := rfl
@[simp] theorem completeAt_hdrVersion (s : State) (t : Addr) : (completeAt s t).hdrVersion = s.hdrVersion := rfl
@[simp] theorem completeAt_hdrEncoding (s : State) (t : Addr) : (completeAt s t).hdrEncoding = s.hdrEncoding := rfl
@[simp] theorem completeAt_hdrSize (s : State) (t : Addr) : (completeAt s t).hdrSize = s.hdrSize := rfl
@[simp] theorem completeAt_hdrRate (s : State) (t : Addr) : (completeAt s t).hdrRate = s.hdrRate := rfl
@[simp] theorem completeAt_hdrCount (s : State) (t : Addr) : (completeAt s t).hdrCount = s.hdrCount := rfl
@[simp] theorem completeAt_rateValid (s : State) (t : Addr) : (completeAt s t).rateValid = s.rateValid := rfl
@[simp] theorem completeAt_rateQ (s : State) (t : Addr) : (completeAt s t).rateQ = s.rateQ := rfl
@[simp] theorem completeAt_budgetUs (s : State) (t : Addr) : (completeAt s t).budgetUs = s.budgetUs := rfl
@[simp] theorem completeAt_rateDiag (s : State) (t : Addr) : (completeAt s t).rateDiag = s.rateDiag := rfl
@[simp] theorem completeAt_refreshHint (s : State) (t : Addr) : (completeAt s t).refreshHint = s.refreshHint := rfl
@[simp] theorem completeAt_bidx (s : State) (t : Addr) : (completeAt s t).bidx = s.bidx := rfl
@[simp] theorem completeAt_fbValid (s : State) (t : Addr) : (completeAt s t).fbValid = s.fbValid := rfl
@[simp] theorem completeAt_iter (s : State) (t : Addr) : (completeAt s t).iter = s.iter := rfl
@[simp] theorem completeAt_tsValid (s : State) (t : Addr) : (completeAt s t).tsValid = s.tsValid := rfl
@[simp] theorem completeAt_tStart (s : State) (t : Addr) : (completeAt s t).tStart = s.tStart := rfl
@[simp] theorem completeAt_tePrev (s : State) (t : Addr) : (completeAt s t).tePrev = s.tePrev := rfl
@[simp] theorem completeAt_dlyActive (s : State) (t : Addr) : (completeAt s t).dlyActive = s.dlyActive := rfl
@[simp] theorem completeAt_dlyT0 (s : State) (t : Addr) : (completeAt s t).dlyT0 = s.dlyT0 := rfl
@[simp] theorem completeAt_dlyLen (s : State) (t : Addr) : (completeAt s t).dlyLen = s.dlyLen := rfl
@[simp] theorem completeAt_paceSleepUs (s : State) (t : Addr) : (completeAt s t).paceSleepUs = s.paceSleepUs := rfl
@[simp] theorem completeAt_backlight (s : State) (t : Addr) : (completeAt s t).backlight = s.backlight := rfl
@[simp] theorem completeAt_fb (s : State) (t : Addr) : (completeAt s t).fb = s.fb := rfl
@[simp] theorem completeAt_sb (s : State) (t : Addr) : (completeAt s t).sb = s.sb := rfl
@[simp] theorem completeAt_rom (s : State) (t : Addr) : (completeAt s t).rom = s.rom := rfl
@[simp] theorem completeAt_par (s : State) (t : Addr) : (completeAt s t).par = s.par := rfl
@[simp] theorem completeAt_file (s : State) (t : Addr) : (completeAt s t).file = s.file := rfl
@[simp] theorem completeAt_time (s : State) (t : Addr) : (completeAt s t).time = s.timeNow := rfl
@[simp] theorem completeAt_tick (s : State) (t : Addr) : (completeAt s t).tick = s.tick + 1 := rfl
@[simp] theorem completeAt_script (s : State) (t : Addr) : (completeAt s t).script = s.script.tail := rfl
@[simp] theorem completeAt_events (s : State) (t : Addr) : (completeAt s t).events = s.events := rfl

@[simp] theorem stay_upc (s : State) : (stay s).upc = s.upc := rfl
@[simp] theorem stay_halted (s : State) : (stay s).halted = s.halted := rfl
@[simp] theorem stay_faultCode (s : State) : (stay s).faultCode = s.faultCode := rfl
@[simp] theorem stay_faultUpc (s : State) : (stay s).faultUpc = s.faultUpc := rfl
@[simp] theorem stay_faultInfo (s : State) : (stay s).faultInfo = s.faultInfo := rfl
@[simp] theorem stay_busMode (s : State) : (stay s).busMode = s.busMode := rfl
@[simp] theorem stay_streamOpen (s : State) : (stay s).streamOpen = s.streamOpen := rfl
@[simp] theorem stay_selIndex (s : State) : (stay s).selIndex = s.selIndex := rfl
@[simp] theorem stay_cursor (s : State) : (stay s).cursor = s.cursor := rfl
@[simp] theorem stay_fss (s : State) : (stay s).fss = s.fss := rfl
@[simp] theorem stay_hbufValid (s : State) : (stay s).hbufValid = s.hbufValid := rfl
@[simp] theorem stay_hdrBuf (s : State) : (stay s).hdrBuf = s.hdrBuf := rfl
@[simp] theorem stay_hdrValid (s : State) : (stay s).hdrValid = s.hdrValid := rfl
@[simp] theorem stay_hdrVersion (s : State) : (stay s).hdrVersion = s.hdrVersion := rfl
@[simp] theorem stay_hdrEncoding (s : State) : (stay s).hdrEncoding = s.hdrEncoding := rfl
@[simp] theorem stay_hdrSize (s : State) : (stay s).hdrSize = s.hdrSize := rfl
@[simp] theorem stay_hdrRate (s : State) : (stay s).hdrRate = s.hdrRate := rfl
@[simp] theorem stay_hdrCount (s : State) : (stay s).hdrCount = s.hdrCount := rfl
@[simp] theorem stay_rateValid (s : State) : (stay s).rateValid = s.rateValid := rfl
@[simp] theorem stay_rateQ (s : State) : (stay s).rateQ = s.rateQ := rfl
@[simp] theorem stay_budgetUs (s : State) : (stay s).budgetUs = s.budgetUs := rfl
@[simp] theorem stay_rateDiag (s : State) : (stay s).rateDiag = s.rateDiag := rfl
@[simp] theorem stay_refreshHint (s : State) : (stay s).refreshHint = s.refreshHint := rfl
@[simp] theorem stay_bidx (s : State) : (stay s).bidx = s.bidx := rfl
@[simp] theorem stay_fbValid (s : State) : (stay s).fbValid = s.fbValid := rfl
@[simp] theorem stay_iter (s : State) : (stay s).iter = s.iter := rfl
@[simp] theorem stay_tsValid (s : State) : (stay s).tsValid = s.tsValid := rfl
@[simp] theorem stay_tStart (s : State) : (stay s).tStart = s.tStart := rfl
@[simp] theorem stay_tePrev (s : State) : (stay s).tePrev = s.tePrev := rfl
@[simp] theorem stay_dlyActive (s : State) : (stay s).dlyActive = s.dlyActive := rfl
@[simp] theorem stay_dlyT0 (s : State) : (stay s).dlyT0 = s.dlyT0 := rfl
@[simp] theorem stay_dlyLen (s : State) : (stay s).dlyLen = s.dlyLen := rfl
@[simp] theorem stay_paceSleepUs (s : State) : (stay s).paceSleepUs = s.paceSleepUs := rfl
@[simp] theorem stay_backlight (s : State) : (stay s).backlight = s.backlight := rfl
@[simp] theorem stay_fb (s : State) : (stay s).fb = s.fb := rfl
@[simp] theorem stay_sb (s : State) : (stay s).sb = s.sb := rfl
@[simp] theorem stay_rom (s : State) : (stay s).rom = s.rom := rfl
@[simp] theorem stay_par (s : State) : (stay s).par = s.par := rfl
@[simp] theorem stay_file (s : State) : (stay s).file = s.file := rfl
@[simp] theorem stay_time (s : State) : (stay s).time = s.timeNow := rfl
@[simp] theorem stay_tick (s : State) : (stay s).tick = s.tick + 1 := rfl
@[simp] theorem stay_script (s : State) : (stay s).script = s.script.tail := rfl
@[simp] theorem stay_events (s : State) : (stay s).events = s.events := rfl

@[simp] theorem loseCursor_upc (s : State) : (loseCursor s).upc = s.upc := rfl
@[simp] theorem loseCursor_halted (s : State) : (loseCursor s).halted = s.halted := rfl
@[simp] theorem loseCursor_faultCode (s : State) : (loseCursor s).faultCode = s.faultCode := rfl
@[simp] theorem loseCursor_faultUpc (s : State) : (loseCursor s).faultUpc = s.faultUpc := rfl
@[simp] theorem loseCursor_faultInfo (s : State) : (loseCursor s).faultInfo = s.faultInfo := rfl
@[simp] theorem loseCursor_busMode (s : State) : (loseCursor s).busMode = s.busMode := rfl
@[simp] theorem loseCursor_streamOpen (s : State) : (loseCursor s).streamOpen = s.streamOpen := rfl
@[simp] theorem loseCursor_selIndex (s : State) : (loseCursor s).selIndex = s.selIndex := rfl
@[simp] theorem loseCursor_cursor (s : State) : (loseCursor s).cursor = Config.freeCursor s.tick := rfl
@[simp] theorem loseCursor_fss (s : State) : (loseCursor s).fss = s.fss := rfl
@[simp] theorem loseCursor_hbufValid (s : State) : (loseCursor s).hbufValid = s.hbufValid := rfl
@[simp] theorem loseCursor_hdrBuf (s : State) : (loseCursor s).hdrBuf = s.hdrBuf := rfl
@[simp] theorem loseCursor_hdrValid (s : State) : (loseCursor s).hdrValid = s.hdrValid := rfl
@[simp] theorem loseCursor_hdrVersion (s : State) : (loseCursor s).hdrVersion = s.hdrVersion := rfl
@[simp] theorem loseCursor_hdrEncoding (s : State) : (loseCursor s).hdrEncoding = s.hdrEncoding := rfl
@[simp] theorem loseCursor_hdrSize (s : State) : (loseCursor s).hdrSize = s.hdrSize := rfl
@[simp] theorem loseCursor_hdrRate (s : State) : (loseCursor s).hdrRate = s.hdrRate := rfl
@[simp] theorem loseCursor_hdrCount (s : State) : (loseCursor s).hdrCount = s.hdrCount := rfl
@[simp] theorem loseCursor_rateValid (s : State) : (loseCursor s).rateValid = s.rateValid := rfl
@[simp] theorem loseCursor_rateQ (s : State) : (loseCursor s).rateQ = s.rateQ := rfl
@[simp] theorem loseCursor_budgetUs (s : State) : (loseCursor s).budgetUs = s.budgetUs := rfl
@[simp] theorem loseCursor_rateDiag (s : State) : (loseCursor s).rateDiag = s.rateDiag := rfl
@[simp] theorem loseCursor_refreshHint (s : State) : (loseCursor s).refreshHint = s.refreshHint := rfl
@[simp] theorem loseCursor_bidx (s : State) : (loseCursor s).bidx = s.bidx := rfl
@[simp] theorem loseCursor_fbValid (s : State) : (loseCursor s).fbValid = s.fbValid := rfl
@[simp] theorem loseCursor_iter (s : State) : (loseCursor s).iter = s.iter := rfl
@[simp] theorem loseCursor_tsValid (s : State) : (loseCursor s).tsValid = s.tsValid := rfl
@[simp] theorem loseCursor_tStart (s : State) : (loseCursor s).tStart = s.tStart := rfl
@[simp] theorem loseCursor_tePrev (s : State) : (loseCursor s).tePrev = s.tePrev := rfl
@[simp] theorem loseCursor_dlyActive (s : State) : (loseCursor s).dlyActive = s.dlyActive := rfl
@[simp] theorem loseCursor_dlyT0 (s : State) : (loseCursor s).dlyT0 = s.dlyT0 := rfl
@[simp] theorem loseCursor_dlyLen (s : State) : (loseCursor s).dlyLen = s.dlyLen := rfl
@[simp] theorem loseCursor_paceSleepUs (s : State) : (loseCursor s).paceSleepUs = s.paceSleepUs := rfl
@[simp] theorem loseCursor_backlight (s : State) : (loseCursor s).backlight = s.backlight := rfl
@[simp] theorem loseCursor_fb (s : State) : (loseCursor s).fb = s.fb := rfl
@[simp] theorem loseCursor_sb (s : State) : (loseCursor s).sb = s.sb := rfl
@[simp] theorem loseCursor_rom (s : State) : (loseCursor s).rom = s.rom := rfl
@[simp] theorem loseCursor_par (s : State) : (loseCursor s).par = s.par := rfl
@[simp] theorem loseCursor_file (s : State) : (loseCursor s).file = s.file := rfl
@[simp] theorem loseCursor_time (s : State) : (loseCursor s).time = s.time := rfl
@[simp] theorem loseCursor_tick (s : State) : (loseCursor s).tick = s.tick := rfl
@[simp] theorem loseCursor_script (s : State) : (loseCursor s).script = s.script := rfl
@[simp] theorem loseCursor_events (s : State) : (loseCursor s).events = s.events := rfl

@[simp] theorem openedAt_upc (s : State) (i : Nat) (file : List Byte) : (openedAt s i file).upc = s.upc := rfl
@[simp] theorem openedAt_halted (s : State) (i : Nat) (file : List Byte) : (openedAt s i file).halted = s.halted := rfl
@[simp] theorem openedAt_faultCode (s : State) (i : Nat) (file : List Byte) : (openedAt s i file).faultCode = s.faultCode := rfl
@[simp] theorem openedAt_faultUpc (s : State) (i : Nat) (file : List Byte) : (openedAt s i file).faultUpc = s.faultUpc := rfl
@[simp] theorem openedAt_faultInfo (s : State) (i : Nat) (file : List Byte) : (openedAt s i file).faultInfo = s.faultInfo := rfl
@[simp] theorem openedAt_busMode (s : State) (i : Nat) (file : List Byte) : (openedAt s i file).busMode = s.busMode := rfl
@[simp] theorem openedAt_streamOpen (s : State) (i : Nat) (file : List Byte) : (openedAt s i file).streamOpen = true := rfl
@[simp] theorem openedAt_selIndex (s : State) (i : Nat) (file : List Byte) : (openedAt s i file).selIndex = BitVec.ofNat 32 i := rfl
@[simp] theorem openedAt_cursor (s : State) (i : Nat) (file : List Byte) : (openedAt s i file).cursor = 0 := rfl
@[simp] theorem openedAt_fss (s : State) (i : Nat) (file : List Byte) : (openedAt s i file).fss = 0 := rfl
@[simp] theorem openedAt_hbufValid (s : State) (i : Nat) (file : List Byte) : (openedAt s i file).hbufValid = s.hbufValid := rfl
@[simp] theorem openedAt_hdrBuf (s : State) (i : Nat) (file : List Byte) : (openedAt s i file).hdrBuf = s.hdrBuf := rfl
@[simp] theorem openedAt_hdrValid (s : State) (i : Nat) (file : List Byte) : (openedAt s i file).hdrValid = s.hdrValid := rfl
@[simp] theorem openedAt_hdrVersion (s : State) (i : Nat) (file : List Byte) : (openedAt s i file).hdrVersion = s.hdrVersion := rfl
@[simp] theorem openedAt_hdrEncoding (s : State) (i : Nat) (file : List Byte) : (openedAt s i file).hdrEncoding = s.hdrEncoding := rfl
@[simp] theorem openedAt_hdrSize (s : State) (i : Nat) (file : List Byte) : (openedAt s i file).hdrSize = s.hdrSize := rfl
@[simp] theorem openedAt_hdrRate (s : State) (i : Nat) (file : List Byte) : (openedAt s i file).hdrRate = s.hdrRate := rfl
@[simp] theorem openedAt_hdrCount (s : State) (i : Nat) (file : List Byte) : (openedAt s i file).hdrCount = s.hdrCount := rfl
@[simp] theorem openedAt_rateValid (s : State) (i : Nat) (file : List Byte) : (openedAt s i file).rateValid = s.rateValid := rfl
@[simp] theorem openedAt_rateQ (s : State) (i : Nat) (file : List Byte) : (openedAt s i file).rateQ = s.rateQ := rfl
@[simp] theorem openedAt_budgetUs (s : State) (i : Nat) (file : List Byte) : (openedAt s i file).budgetUs = s.budgetUs := rfl
@[simp] theorem openedAt_rateDiag (s : State) (i : Nat) (file : List Byte) : (openedAt s i file).rateDiag = s.rateDiag := rfl
@[simp] theorem openedAt_refreshHint (s : State) (i : Nat) (file : List Byte) : (openedAt s i file).refreshHint = s.refreshHint := rfl
@[simp] theorem openedAt_bidx (s : State) (i : Nat) (file : List Byte) : (openedAt s i file).bidx = s.bidx := rfl
@[simp] theorem openedAt_fbValid (s : State) (i : Nat) (file : List Byte) : (openedAt s i file).fbValid = s.fbValid := rfl
@[simp] theorem openedAt_iter (s : State) (i : Nat) (file : List Byte) : (openedAt s i file).iter = s.iter := rfl
@[simp] theorem openedAt_tsValid (s : State) (i : Nat) (file : List Byte) : (openedAt s i file).tsValid = s.tsValid := rfl
@[simp] theorem openedAt_tStart (s : State) (i : Nat) (file : List Byte) : (openedAt s i file).tStart = s.tStart := rfl
@[simp] theorem openedAt_tePrev (s : State) (i : Nat) (file : List Byte) : (openedAt s i file).tePrev = s.tePrev := rfl
@[simp] theorem openedAt_dlyActive (s : State) (i : Nat) (file : List Byte) : (openedAt s i file).dlyActive = s.dlyActive := rfl
@[simp] theorem openedAt_dlyT0 (s : State) (i : Nat) (file : List Byte) : (openedAt s i file).dlyT0 = s.dlyT0 := rfl
@[simp] theorem openedAt_dlyLen (s : State) (i : Nat) (file : List Byte) : (openedAt s i file).dlyLen = s.dlyLen := rfl
@[simp] theorem openedAt_paceSleepUs (s : State) (i : Nat) (file : List Byte) : (openedAt s i file).paceSleepUs = s.paceSleepUs := rfl
@[simp] theorem openedAt_backlight (s : State) (i : Nat) (file : List Byte) : (openedAt s i file).backlight = s.backlight := rfl
@[simp] theorem openedAt_fb (s : State) (i : Nat) (file : List Byte) : (openedAt s i file).fb = s.fb := rfl
@[simp] theorem openedAt_sb (s : State) (i : Nat) (file : List Byte) : (openedAt s i file).sb = s.sb := rfl
@[simp] theorem openedAt_rom (s : State) (i : Nat) (file : List Byte) : (openedAt s i file).rom = s.rom := rfl
@[simp] theorem openedAt_par (s : State) (i : Nat) (file : List Byte) : (openedAt s i file).par = s.par := rfl
@[simp] theorem openedAt_file (s : State) (i : Nat) (file : List Byte) : (openedAt s i file).file = file := rfl
@[simp] theorem openedAt_time (s : State) (i : Nat) (file : List Byte) : (openedAt s i file).time = s.time := rfl
@[simp] theorem openedAt_tick (s : State) (i : Nat) (file : List Byte) : (openedAt s i file).tick = s.tick := rfl
@[simp] theorem openedAt_script (s : State) (i : Nat) (file : List Byte) : (openedAt s i file).script = s.script := rfl
@[simp] theorem openedAt_events (s : State) (i : Nat) (file : List Byte) : (openedAt s i file).events = s.events := rfl

@[simp] theorem openTried_upc (s : State) (i : Nat) (ok : Bool) : (openTried s i ok).upc = s.upc := rfl
@[simp] theorem openTried_halted (s : State) (i : Nat) (ok : Bool) : (openTried s i ok).halted = s.halted := rfl
@[simp] theorem openTried_faultCode (s : State) (i : Nat) (ok : Bool) : (openTried s i ok).faultCode = s.faultCode := rfl
@[simp] theorem openTried_faultUpc (s : State) (i : Nat) (ok : Bool) : (openTried s i ok).faultUpc = s.faultUpc := rfl
@[simp] theorem openTried_faultInfo (s : State) (i : Nat) (ok : Bool) : (openTried s i ok).faultInfo = s.faultInfo := rfl
@[simp] theorem openTried_busMode (s : State) (i : Nat) (ok : Bool) : (openTried s i ok).busMode = s.busMode := rfl
@[simp] theorem openTried_streamOpen (s : State) (i : Nat) (ok : Bool) : (openTried s i ok).streamOpen = s.streamOpen := rfl
@[simp] theorem openTried_selIndex (s : State) (i : Nat) (ok : Bool) : (openTried s i ok).selIndex = s.selIndex := rfl
@[simp] theorem openTried_cursor (s : State) (i : Nat) (ok : Bool) : (openTried s i ok).cursor = s.cursor := rfl
@[simp] theorem openTried_fss (s : State) (i : Nat) (ok : Bool) : (openTried s i ok).fss = s.fss := rfl
@[simp] theorem openTried_hbufValid (s : State) (i : Nat) (ok : Bool) : (openTried s i ok).hbufValid = s.hbufValid := rfl
@[simp] theorem openTried_hdrBuf (s : State) (i : Nat) (ok : Bool) : (openTried s i ok).hdrBuf = s.hdrBuf := rfl
@[simp] theorem openTried_hdrValid (s : State) (i : Nat) (ok : Bool) : (openTried s i ok).hdrValid = s.hdrValid := rfl
@[simp] theorem openTried_hdrVersion (s : State) (i : Nat) (ok : Bool) : (openTried s i ok).hdrVersion = s.hdrVersion := rfl
@[simp] theorem openTried_hdrEncoding (s : State) (i : Nat) (ok : Bool) : (openTried s i ok).hdrEncoding = s.hdrEncoding := rfl
@[simp] theorem openTried_hdrSize (s : State) (i : Nat) (ok : Bool) : (openTried s i ok).hdrSize = s.hdrSize := rfl
@[simp] theorem openTried_hdrRate (s : State) (i : Nat) (ok : Bool) : (openTried s i ok).hdrRate = s.hdrRate := rfl
@[simp] theorem openTried_hdrCount (s : State) (i : Nat) (ok : Bool) : (openTried s i ok).hdrCount = s.hdrCount := rfl
@[simp] theorem openTried_rateValid (s : State) (i : Nat) (ok : Bool) : (openTried s i ok).rateValid = s.rateValid := rfl
@[simp] theorem openTried_rateQ (s : State) (i : Nat) (ok : Bool) : (openTried s i ok).rateQ = s.rateQ := rfl
@[simp] theorem openTried_budgetUs (s : State) (i : Nat) (ok : Bool) : (openTried s i ok).budgetUs = s.budgetUs := rfl
@[simp] theorem openTried_rateDiag (s : State) (i : Nat) (ok : Bool) : (openTried s i ok).rateDiag = s.rateDiag := rfl
@[simp] theorem openTried_refreshHint (s : State) (i : Nat) (ok : Bool) : (openTried s i ok).refreshHint = s.refreshHint := rfl
@[simp] theorem openTried_bidx (s : State) (i : Nat) (ok : Bool) : (openTried s i ok).bidx = s.bidx := rfl
@[simp] theorem openTried_fbValid (s : State) (i : Nat) (ok : Bool) : (openTried s i ok).fbValid = s.fbValid := rfl
@[simp] theorem openTried_iter (s : State) (i : Nat) (ok : Bool) : (openTried s i ok).iter = s.iter := rfl
@[simp] theorem openTried_tsValid (s : State) (i : Nat) (ok : Bool) : (openTried s i ok).tsValid = s.tsValid := rfl
@[simp] theorem openTried_tStart (s : State) (i : Nat) (ok : Bool) : (openTried s i ok).tStart = s.tStart := rfl
@[simp] theorem openTried_tePrev (s : State) (i : Nat) (ok : Bool) : (openTried s i ok).tePrev = s.tePrev := rfl
@[simp] theorem openTried_dlyActive (s : State) (i : Nat) (ok : Bool) : (openTried s i ok).dlyActive = s.dlyActive := rfl
@[simp] theorem openTried_dlyT0 (s : State) (i : Nat) (ok : Bool) : (openTried s i ok).dlyT0 = s.dlyT0 := rfl
@[simp] theorem openTried_dlyLen (s : State) (i : Nat) (ok : Bool) : (openTried s i ok).dlyLen = s.dlyLen := rfl
@[simp] theorem openTried_paceSleepUs (s : State) (i : Nat) (ok : Bool) : (openTried s i ok).paceSleepUs = s.paceSleepUs := rfl
@[simp] theorem openTried_backlight (s : State) (i : Nat) (ok : Bool) : (openTried s i ok).backlight = s.backlight := rfl
@[simp] theorem openTried_fb (s : State) (i : Nat) (ok : Bool) : (openTried s i ok).fb = s.fb := rfl
@[simp] theorem openTried_sb (s : State) (i : Nat) (ok : Bool) : (openTried s i ok).sb = s.sb := rfl
@[simp] theorem openTried_rom (s : State) (i : Nat) (ok : Bool) : (openTried s i ok).rom = s.rom := rfl
@[simp] theorem openTried_par (s : State) (i : Nat) (ok : Bool) : (openTried s i ok).par = s.par := rfl
@[simp] theorem openTried_file (s : State) (i : Nat) (ok : Bool) : (openTried s i ok).file = s.file := rfl
@[simp] theorem openTried_time (s : State) (i : Nat) (ok : Bool) : (openTried s i ok).time = s.time := rfl
@[simp] theorem openTried_tick (s : State) (i : Nat) (ok : Bool) : (openTried s i ok).tick = s.tick := rfl
@[simp] theorem openTried_script (s : State) (i : Nat) (ok : Bool) : (openTried s i ok).script = s.script := rfl
@[simp] theorem openTried_events (s : State) (i : Nat) (ok : Bool) : (openTried s i ok).events = .streamOpen i ok :: .rngNext s.draw.rng :: s.events := rfl

@[simp] theorem blockReset_upc (s : State) : (blockReset s).upc = State.reset.upc := rfl
@[simp] theorem blockReset_halted (s : State) : (blockReset s).halted = State.reset.halted := rfl
@[simp] theorem blockReset_faultCode (s : State) : (blockReset s).faultCode = State.reset.faultCode := rfl
@[simp] theorem blockReset_faultUpc (s : State) : (blockReset s).faultUpc = State.reset.faultUpc := rfl
@[simp] theorem blockReset_faultInfo (s : State) : (blockReset s).faultInfo = State.reset.faultInfo := rfl
@[simp] theorem blockReset_busMode (s : State) : (blockReset s).busMode = State.reset.busMode := rfl
@[simp] theorem blockReset_streamOpen (s : State) : (blockReset s).streamOpen = State.reset.streamOpen := rfl
@[simp] theorem blockReset_selIndex (s : State) : (blockReset s).selIndex = State.reset.selIndex := rfl
@[simp] theorem blockReset_cursor (s : State) : (blockReset s).cursor = State.reset.cursor := rfl
@[simp] theorem blockReset_fss (s : State) : (blockReset s).fss = State.reset.fss := rfl
@[simp] theorem blockReset_hbufValid (s : State) : (blockReset s).hbufValid = State.reset.hbufValid := rfl
@[simp] theorem blockReset_hdrBuf (s : State) : (blockReset s).hdrBuf = State.reset.hdrBuf := rfl
@[simp] theorem blockReset_hdrValid (s : State) : (blockReset s).hdrValid = State.reset.hdrValid := rfl
@[simp] theorem blockReset_hdrVersion (s : State) : (blockReset s).hdrVersion = State.reset.hdrVersion := rfl
@[simp] theorem blockReset_hdrEncoding (s : State) : (blockReset s).hdrEncoding = State.reset.hdrEncoding := rfl
@[simp] theorem blockReset_hdrSize (s : State) : (blockReset s).hdrSize = State.reset.hdrSize := rfl
@[simp] theorem blockReset_hdrRate (s : State) : (blockReset s).hdrRate = State.reset.hdrRate := rfl
@[simp] theorem blockReset_hdrCount (s : State) : (blockReset s).hdrCount = State.reset.hdrCount := rfl
@[simp] theorem blockReset_rateValid (s : State) : (blockReset s).rateValid = State.reset.rateValid := rfl
@[simp] theorem blockReset_rateQ (s : State) : (blockReset s).rateQ = State.reset.rateQ := rfl
@[simp] theorem blockReset_budgetUs (s : State) : (blockReset s).budgetUs = State.reset.budgetUs := rfl
@[simp] theorem blockReset_rateDiag (s : State) : (blockReset s).rateDiag = State.reset.rateDiag := rfl
@[simp] theorem blockReset_refreshHint (s : State) : (blockReset s).refreshHint = State.reset.refreshHint := rfl
@[simp] theorem blockReset_bidx (s : State) : (blockReset s).bidx = State.reset.bidx := rfl
@[simp] theorem blockReset_fbValid (s : State) : (blockReset s).fbValid = State.reset.fbValid := rfl
@[simp] theorem blockReset_iter (s : State) : (blockReset s).iter = State.reset.iter := rfl
@[simp] theorem blockReset_tsValid (s : State) : (blockReset s).tsValid = State.reset.tsValid := rfl
@[simp] theorem blockReset_tStart (s : State) : (blockReset s).tStart = State.reset.tStart := rfl
@[simp] theorem blockReset_tePrev (s : State) : (blockReset s).tePrev = State.reset.tePrev := rfl
@[simp] theorem blockReset_dlyActive (s : State) : (blockReset s).dlyActive = State.reset.dlyActive := rfl
@[simp] theorem blockReset_dlyT0 (s : State) : (blockReset s).dlyT0 = State.reset.dlyT0 := rfl
@[simp] theorem blockReset_dlyLen (s : State) : (blockReset s).dlyLen = State.reset.dlyLen := rfl
@[simp] theorem blockReset_paceSleepUs (s : State) : (blockReset s).paceSleepUs = State.reset.paceSleepUs := rfl
@[simp] theorem blockReset_backlight (s : State) : (blockReset s).backlight = State.reset.backlight := rfl
@[simp] theorem blockReset_fb (s : State) : (blockReset s).fb = State.reset.fb := rfl
@[simp] theorem blockReset_sb (s : State) : (blockReset s).sb = State.reset.sb := rfl
@[simp] theorem blockReset_rom (s : State) : (blockReset s).rom = s.rom := rfl
@[simp] theorem blockReset_par (s : State) : (blockReset s).par = s.par := rfl
@[simp] theorem blockReset_file (s : State) : (blockReset s).file = s.file := rfl
@[simp] theorem blockReset_time (s : State) : (blockReset s).time = s.time := rfl
@[simp] theorem blockReset_tick (s : State) : (blockReset s).tick = s.tick := rfl
@[simp] theorem blockReset_script (s : State) : (blockReset s).script = s.script := rfl
@[simp] theorem blockReset_events (s : State) : (blockReset s).events = s.events := rfl


@[simp] theorem emit_draw (s : State) (e : Event) : (State.emit s e).draw = s.draw := rfl

@[simp] theorem emit_timeNow (s : State) (e : Event) : (State.emit s e).timeNow = s.timeNow := rfl

@[simp] theorem emit_now (s : State) (e : Event) : (State.emit s e).now = s.now := rfl

@[simp] theorem loseCursor_draw (s : State) : (loseCursor s).draw = s.draw := rfl

@[simp] theorem loseCursor_timeNow (s : State) : (loseCursor s).timeNow = s.timeNow := rfl

@[simp] theorem blockReset_draw (s : State) : (blockReset s).draw = s.draw := rfl

@[simp] theorem blockReset_timeNow (s : State) : (blockReset s).timeNow = s.timeNow := rfl

/-- The draw depends on the script and the tick alone. -/
theorem draw_congr {s t : State} (h₁ : t.script = s.script) (h₂ : t.tick = s.tick) : t.draw = s.draw := by
  simp only [State.draw, h₁, h₂]

theorem draw_cons {s : State} {d : Draw} {rest : List Draw} (h : s.script = d :: rest) : s.draw = d := by
  simp only [State.draw, h, drawOf]

/-- The environment's time never moves back (43_playloop.md R351). -/
theorem time_le_timeNow (s : State) : s.time ≤ s.timeNow := Nat.le_add_right _ _

@[simp] theorem need_true (c : FatalCode) (info : Word32) (s next : State) : need true c info s next = next := rfl

@[simp] theorem need_false (c : FatalCode) (info : Word32) (s next : State) :
    need false c info s next = raise s c info := rfl

theorem need_pos {ok : Bool} (h : ok = true) (c : FatalCode) (info : Word32) (s next : State) :
    need ok c info s next = next := by rw [h]; rfl

theorem need_neg {ok : Bool} (h : ok = false) (c : FatalCode) (info : Word32) (s next : State) :
    need ok c info s next = raise s c info := by rw [h]; rfl

/-- A precondition raises its fault or lets the op go on. -/
theorem need_cases (ok : Bool) (c : FatalCode) (info : Word32) (s next : State) :
    (ok = true ∧ need ok c info s next = next) ∨ (ok = false ∧ need ok c info s next = raise s c info) := by
  cases ok <;> simp

theorem answered_yes {s : State} (h : s.draw.answers = true) (next : State) : answered s next = next := by
  simp [answered, h]

theorem answered_no {s : State} (h : s.draw.answers = false) (next : State) : answered s next = stay s := by
  simp [answered, h]

/-- What holds of the fault of a failed precondition and of the op that goes on holds after the check. -/
theorem need_elim {P : State → Prop} {ok : Bool} {c : FatalCode} {info : Word32} {s next : State}
    (hno : ok = false → P (raise s c info)) (hyes : ok = true → P next) : P (need ok c info s next) := by
  cases ok
  · exact hno rfl
  · exact hyes rfl

/-- What holds of a hold and of the op that goes on holds after the transactions. -/
theorem answered_elim {P : State → Prop} {s next : State} (hno : s.draw.answers = false → P (stay s))
    (hyes : s.draw.answers = true → P next) : P (answered s next) := by
  cases h : s.draw.answers with
  | false =>
    rw [answered_no h]
    exact hno h
  | true =>
    rw [answered_yes h]
    exact hyes h

/-- Fault entry under Halt (60_exceptions.md R400): the latch, the record, `halted`, and nothing else. -/
theorem raise_halt {s : State} (h : s.par.fatalAction = .halt) (c : FatalCode) (info : Word32) :
    raise s c info =
      State.pass
        { s with
          faultCode := c.code, faultUpc := s.upc, faultInfo := info, events := .fatal c s.upc info :: s.events,
          halted := true } := by
  simp only [raise, h]

/-- Fault entry under Reset (60_exceptions.md R404): the reset state, with the fault recorded. -/
theorem raise_reset {s : State} (h : s.par.fatalAction = .reset) (c : FatalCode) (info : Word32) :
    raise s c info = State.pass (blockReset { s with events := .fatal c s.upc info :: s.events }) := by
  simp only [raise, h]
  rfl

@[simp] theorem raise_rom (s : State) (c : FatalCode) (info : Word32) : (raise s c info).rom = s.rom := by
  unfold raise; cases s.par.fatalAction <;> rfl

@[simp] theorem raise_par (s : State) (c : FatalCode) (info : Word32) : (raise s c info).par = s.par := by
  unfold raise; cases s.par.fatalAction <;> rfl

@[simp] theorem raise_file (s : State) (c : FatalCode) (info : Word32) : (raise s c info).file = s.file := by
  unfold raise; cases s.par.fatalAction <;> rfl

@[simp] theorem raise_time (s : State) (c : FatalCode) (info : Word32) : (raise s c info).time = s.timeNow := by
  unfold raise; cases s.par.fatalAction <;> rfl

@[simp] theorem raise_tick (s : State) (c : FatalCode) (info : Word32) : (raise s c info).tick = s.tick + 1 := by
  unfold raise; cases s.par.fatalAction <;> rfl

@[simp] theorem raise_script (s : State) (c : FatalCode) (info : Word32) : (raise s c info).script = s.script.tail := by
  unfold raise; cases s.par.fatalAction <;> rfl

@[simp] theorem raise_events (s : State) (c : FatalCode) (info : Word32) : (raise s c info).events = .fatal c s.upc info :: s.events := by
  unfold raise; cases s.par.fatalAction <;> rfl

end Sys2Proof.Machine
end

