-- ==== Sys2Proof/Laws/Loader.lean ====
section
/-! SUPPORT. What a read of the stream and a blit do: the count and the bytes of a read, each FB byte of a blit, and
the geometry that keeps both in bounds. -/

namespace Sys2Proof.Machine

open Sys2Proof

/-- `size * scale = 240` (41_loader.md R251). -/
theorem Routine.side_mul_scale (r : Routine) : r.side * r.scale = 240 := by cases r <;> rfl

/-- `rows_per_batch * batches = size` (41_loader.md R251). -/
theorem Routine.rows_mul_batches (r : Routine) : r.rows * r.batches = r.side := by cases r <;> rfl

/-- A batch fits in SB (41_loader.md R251). -/
theorem Routine.batchBytes_le (r : Routine) : r.batchBytes ≤ sbBytes := by cases r <;> decide

/-- `frame_bytes = batches * batch_bytes` (41_loader.md R251). -/
theorem Routine.frameBytes_eq (r : Routine) : r.frameBytes = r.batches * r.batchBytes := by cases r <;> rfl

/-- The batches of a frame cover FB exactly (41_loader.md R261). -/
theorem Routine.batches_mul_fbBatchBytes (r : Routine) : r.batches * r.fbBatchBytes = fbBytes := by cases r <;> rfl

/-- A batch below `batches` writes inside FB (41_loader.md R262). -/
theorem Routine.batch_inside {r : Routine} {b : Nat} (h : b < r.batches) :
    b * r.fbBatchBytes + r.fbBatchBytes ≤ fbBytes := by
  rw [← r.batches_mul_fbBatchBytes, ← Nat.succ_mul]
  exact Nat.mul_le_mul_right _ h

/-- The size byte of a routine, and nothing else, selects it (30_encoding.md R122). -/
theorem routineOf_eq_some {size : Byte} {r : Routine} (h : routineOf size = some r) : size.toNat = r.side := by
  unfold routineOf at h
  split_ifs at h with h₁ h₂ h₃ <;> (cases h; subst_vars; rfl)

/-- A StreamRead gives at most what was asked for, what the device draws, and what the file holds (20_memory.md
R102). -/
theorem length_streamRead {s : State} {n : Nat} {bytes : List Byte} (h : streamRead s n = some bytes) :
    ∃ k, s.draw.read = some k ∧ bytes.length = min (min k n) (s.file.length - s.cursor.toNat) := by
  unfold streamRead at h
  obtain ⟨k, hk, rfl⟩ := Option.map_eq_some_iff.1 h
  exact ⟨k, hk, by simp⟩

theorem length_streamRead_le {s : State} {n : Nat} {bytes : List Byte} (h : streamRead s n = some bytes) :
    bytes.length ≤ n := by
  obtain ⟨k, -, h⟩ := length_streamRead h
  omega

/-- The bytes of a StreamRead are the file's bytes from the cursor on (20_memory.md R102). -/
theorem getElem?_streamRead {s : State} {n i : Nat} {bytes : List Byte} (h : streamRead s n = some bytes)
    (hi : i < bytes.length) : bytes[i]? = s.file[s.cursor.toNat + i]? := by
  unfold streamRead at h
  obtain ⟨k, -, rfl⟩ := Option.map_eq_some_iff.1 h
  simp only [List.length_take, List.length_drop] at hi
  rw [List.getElem?_take, if_pos (by omega), List.getElem?_drop]

/-- A byte of the bytes a blit took from SB. -/
theorem join_readRange (sb : Memory) (n i : Nat) :
    ((sb.readRange 0 n).toArray[i]?).join = if i < n then Memory.read sb i else none := by
  rw [List.getElem?_toArray, Memory.getElem?_readRange]
  split <;> simp

/-- Every source byte of a replicating batch lies inside the batch (41_loader.md R262). -/
theorem blitSource_lt {side rows scale b a : Nat} (hs : side * scale = 240)
    (h₁ : rows * scale * b * 480 ≤ a) (h₂ : a < rows * scale * b * 480 + rows * scale * 480) :
    blitSource side rows scale b a < rows * side * 2 := by
  have hscale : 0 < scale := by rcases Nat.eq_zero_or_pos scale with h | h <;> [simp [h] at hs; exact h]
  unfold blitSource
  dsimp only
  have hx : a / 2 % 240 < 240 := Nat.mod_lt _ (by decide)
  have hsx : a / 2 % 240 / scale < side := by
    rw [Nat.div_lt_iff_lt_mul hscale]; omega
  have hy : a / 2 / 240 - rows * scale * b < rows * scale := by omega
  have hlr : (a / 2 / 240 - rows * scale * b) / scale < rows := by
    rw [Nat.div_lt_iff_lt_mul hscale]; exact hy
  have h3 : (a / 2 / 240 - rows * scale * b) / scale * side + side ≤ rows * side := by
    rw [← Nat.succ_mul]; exact Nat.mul_le_mul_right _ hlr
  omega

/-- What a replicating blit does to every byte of FB. -/
theorem read_replicate {side rows scale b a : Nat} {fb : Memory} (sb : Memory) (hs : side * scale = 240)
    (hfb : Memory.wf fbBytes fb = true) :
    Memory.read (replicate side rows scale b fb sb) a =
      if rows * scale * b * 480 ≤ a ∧ a < rows * scale * b * 480 + rows * scale * 480 then
        Memory.read sb (blitSource side rows scale b a)
      else Memory.read fb a := by
  unfold replicate
  dsimp only
  rw [Memory.read_fill _ hfb]
  split_ifs with h
  · rw [join_readRange, if_pos (blitSource_lt hs h.1 h.2)]
  · rfl

/-- What the size-240 blit does to every byte of FB. -/
theorem read_blit240 {b a : Nat} {fb : Memory} (sb : Memory) (hfb : Memory.wf fbBytes fb = true) :
    Memory.read (blit240 b fb sb) a =
      if 3840 * b ≤ a ∧ a < 3840 * b + 3840 then Memory.read sb (a - 3840 * b) else Memory.read fb a := by
  unfold blit240
  dsimp only
  rw [Memory.read_fill _ hfb, show 480 * (8 * b) = 3840 * b by omega]
  split_ifs with h
  · rw [join_readRange, if_pos (by omega)]
  · rfl

/-- At full size the nearest source byte of an FB byte is the byte at the same place of the batch. -/
theorem blitSource_full {b a : Nat} (h : 3840 * b ≤ a) : blitSource 240 8 1 b a = a - 3840 * b := by
  unfold blitSource
  dsimp only
  omega

/-- What a batch's blit does to every byte of FB, for every size. -/
theorem read_blit {r : Routine} {b a : Nat} {fb : Memory} (sb : Memory) (hfb : Memory.wf fbBytes fb = true) :
    Memory.read (blit r b fb sb) a =
      if b * r.fbBatchBytes ≤ a ∧ a < b * r.fbBatchBytes + r.fbBatchBytes then
        Memory.read sb (blitSource r.side r.rows r.scale b a)
      else Memory.read fb a := by
  cases r
  · show Memory.read (replicate 60 30 4 b fb sb) a = _
    rw [read_replicate sb rfl hfb, show 30 * 4 * b * 480 = b * 57600 by omega]; rfl
  · show Memory.read (replicate 120 15 2 b fb sb) a = _
    rw [read_replicate sb rfl hfb, show 15 * 2 * b * 480 = b * 14400 by omega]; rfl
  · show Memory.read (blit240 b fb sb) a = _
    rw [read_blit240 sb hfb, Nat.mul_comm]
    show (if b * 3840 ≤ a ∧ a < b * 3840 + 3840 then _ else _) =
      if b * 3840 ≤ a ∧ a < b * 3840 + 3840 then Memory.read sb (blitSource 240 8 1 b a) else _
    split_ifs with h
    · rw [blitSource_full (by omega), Nat.mul_comm]
    · rfl

/-- A replicating blit whose rows lie inside FB keeps FB canonical. -/
theorem wf_replicate {side rows scale b : Nat} {fb : Memory} (sb : Memory) (hfb : Memory.wf fbBytes fb = true)
    (h : rows * scale * b * 480 + rows * scale * 480 ≤ fbBytes) :
    Memory.wf fbBytes (replicate side rows scale b fb sb) = true := Memory.wf_fill _ hfb h

/-- A batch below `batches` keeps FB canonical. -/
theorem wf_blit {r : Routine} {b : Nat} {fb : Memory} (sb : Memory) (hb : b < r.batches)
    (hfb : Memory.wf fbBytes fb = true) : Memory.wf fbBytes (blit r b fb sb) = true := by
  have h := Routine.batch_inside hb
  have e : r.rows * r.scale * b * 480 + r.rows * r.scale * 480 = b * r.fbBatchBytes + r.fbBatchBytes := by
    unfold Routine.fbBatchBytes; ring
  cases r
  · exact wf_replicate sb hfb (e.trans_le h)
  · exact wf_replicate sb hfb (e.trans_le h)
  · have e' : 480 * (8 * b) + 3840 = b * 3840 + 3840 := by ring
    exact Memory.wf_fill _ hfb (e'.trans_le h)

/-- Inside its batch every source byte lies in `[0, batch_bytes)`, for every size (41_loader.md R262). -/
theorem blitSource_lt_batchBytes {r : Routine} {b a : Nat} (h₁ : b * r.fbBatchBytes ≤ a)
    (h₂ : a < b * r.fbBatchBytes + r.fbBatchBytes) :
    blitSource r.side r.rows r.scale b a < r.batchBytes := by
  have e : r.rows * r.scale * b * 480 = b * r.fbBatchBytes := by unfold Routine.fbBatchBytes; ring
  have e' : r.rows * r.scale * 480 = r.fbBatchBytes := rfl
  exact blitSource_lt r.side_mul_scale (by omega) (by omega)

/-- A read that the device answers in full, of bytes the file still holds, gives exactly those bytes (20_memory.md
R102). -/
theorem streamRead_full {s : State} {n k : Nat} (hk : s.draw.read = some k) (hn : n ≤ k)
    (hf : s.cursor.toNat + n ≤ s.file.length) : ∃ bytes, streamRead s n = some bytes ∧ bytes.length = n := by
  refine ⟨_, by simp only [streamRead, hk, Option.map_some]; rfl, ?_⟩
  simp only [List.length_take, List.length_drop]
  omega

/-- A whole batch before the last one (41_loader.md R254). -/
theorem loadBatch_more {s : State} {r : Routine} (bytes : List Byte) (h : s.bidx.toNat + 1 < r.batches) :
    loadBatch s r bytes =
      stay
        { s with
          sb := s.sb.writeBytes 0 bytes, cursor := s.cursor + BitVec.ofNat 64 r.batchBytes,
          fb := blit r s.bidx.toNat s.fb (s.sb.writeBytes 0 bytes), bidx := s.bidx + 1 } := by
  simp only [loadBatch, loadAdvance, if_pos h]

/-- The last batch of a frame (41_loader.md R254). -/
theorem loadBatch_last {s : State} {r : Routine} (bytes : List Byte) (h : ¬s.bidx.toNat + 1 < r.batches) :
    loadBatch s r bytes =
      complete
        { s with
          sb := s.sb.writeBytes 0 bytes, cursor := s.cursor + BitVec.ofNat 64 r.batchBytes,
          fb := blit r s.bidx.toNat s.fb (s.sb.writeBytes 0 bytes), bidx := 0, fss := s.fss + 1, fbValid := true } := by
  simp only [loadBatch, loadAdvance, if_neg h]

/-- Everything a LOAD step can do after its preconditions (41_loader.md R254, R263): hold, fail on the read, fail on a
short read, or move a whole batch. -/
theorem loadStep_cases (s : State) (r : Routine) :
    (s.draw.answers = false ∧ loadStep s r = stay s) ∨
    (s.draw.answers = true ∧ streamRead s r.batchBytes = none ∧
      loadStep s r =
        raise (loadLost (s.emit (.streamRead r.batchBytes none)) r) .readError (BitVec.ofNat 32 r.batchBytes)) ∨
    (∃ bytes, s.draw.answers = true ∧ streamRead s r.batchBytes = some bytes ∧ bytes.length < r.batchBytes ∧
      loadStep s r =
        raise (loadLost (s.emit (.streamRead r.batchBytes (some bytes.length))) r) .shortRead
          (BitVec.ofNat 32 bytes.length)) ∨
    (∃ bytes, s.draw.answers = true ∧ streamRead s r.batchBytes = some bytes ∧ bytes.length = r.batchBytes ∧
      loadStep s r = loadBatch (s.emit (.streamRead r.batchBytes (some r.batchBytes))) r bytes) := by
  cases ha : s.draw.answers with
  | false => exact .inl ⟨rfl, by simp only [loadStep, answered_no ha]⟩
  | true =>
    cases hr : streamRead s r.batchBytes with
    | none => exact .inr (.inl ⟨rfl, rfl, by simp only [loadStep, answered_yes ha, hr]⟩)
    | some bytes =>
      have hle := length_streamRead_le hr
      by_cases hl : bytes.length < r.batchBytes
      · exact .inr (.inr (.inl ⟨bytes, rfl, rfl, hl, by simp only [loadStep, answered_yes ha, hr, if_pos hl]⟩))
      · have he : bytes.length = r.batchBytes := by omega
        exact .inr (.inr (.inr ⟨bytes, rfl, rfl, he, by simp only [loadStep, answered_yes ha, hr, he, lt_irrefl, if_false]⟩))

/-- The SB bytes after a whole batch: the file's bytes from the cursor, then what was there (41_loader.md R254). -/
theorem read_batch {s : State} {n a : Nat} {bytes : List Byte} (h : streamRead s n = some bytes)
    (hn : bytes.length = n) (hw : Memory.wf sbBytes s.sb = true) :
    Memory.read (s.sb.writeBytes 0 bytes) a = if a < n then s.file[s.cursor.toNat + a]? else Memory.read s.sb a := by
  rw [Memory.read_writeBytes bytes hw, hn]
  by_cases ha : a < n
  · simp only [Nat.zero_le, Nat.zero_add, ha, true_and, if_true, Nat.sub_zero]
    exact getElem?_streamRead h (by omega)
  · simp only [Nat.zero_le, Nat.zero_add, ha, and_false, if_false]

/-- The FB bytes after a whole batch: the file's bytes of the nearest source pixels, then what was there (41_loader.md
R254, R261). -/
theorem read_blit_batch {s : State} {r : Routine} {b a : Nat} {bytes : List Byte}
    (h : streamRead s r.batchBytes = some bytes) (hn : bytes.length = r.batchBytes)
    (hw : Memory.wf sbBytes s.sb = true) (hfb : Memory.wf fbBytes s.fb = true) :
    Memory.read (blit r b s.fb (s.sb.writeBytes 0 bytes)) a =
      if b * r.fbBatchBytes ≤ a ∧ a < b * r.fbBatchBytes + r.fbBatchBytes then
        s.file[s.cursor.toNat + blitSource r.side r.rows r.scale b a]?
      else Memory.read s.fb a := by
  rw [read_blit _ hfb]
  split_ifs with ha
  · rw [read_batch h hn hw, if_pos (blitSource_lt_batchBytes ha.1 ha.2)]
  · rfl

end Sys2Proof.Machine
end

