-- ==== Sys2Proof/Laws/Ops.lean ====
section
/-! SUPPORT. Everything each shared operation of a meaning can do, said once: the provers cite these and unfold no
operation. -/

namespace Sys2Proof.Machine

open Sys2Proof

/-- A speed switch answers or holds (42_boot.md R303, R304). -/
theorem setSpeed_cases (s : State) (hz : Nat) (mode : BusMode) :
    (s.draw.answers = false ∧ setSpeed s hz mode = stay s) ∨
    (s.draw.answers = true ∧
      setSpeed s hz mode = complete { s.emit (.busSetSpeed hz s.draw.actualHz) with busMode := mode }) := by
  cases h : s.draw.answers with
  | false => exact .inl ⟨rfl, by simp only [setSpeed, answered_no h]⟩
  | true => exact .inr ⟨rfl, by simp only [setSpeed, answered_yes h]⟩

/-- SELECT with a list finds no candidate, fails to open the drawn one, or opens it (42_boot.md R306). -/
theorem selectFrom_cases (s : State) (list : List (List Byte)) :
    (min list.length s.par.maxFiles = 0 ∧ selectFrom s list = raise s .noFiles 0) ∨
    (∃ i, i = s.draw.rng.toNat % min list.length s.par.maxFiles ∧ i < list.length ∧ s.draw.opens = false ∧
      selectFrom s list = raise (openTried s i false) .openError (BitVec.ofNat 32 i)) ∨
    (∃ i, i = s.draw.rng.toNat % min list.length s.par.maxFiles ∧ i < list.length ∧ s.draw.opens = true ∧
      selectFrom s list = complete (openedAt (openTried s i true) i (list.getD i []))) := by
  by_cases hn : min list.length s.par.maxFiles = 0
  · exact .inl ⟨hn, by simp only [selectFrom, if_pos hn]⟩
  · have hi : s.draw.rng.toNat % min list.length s.par.maxFiles < list.length :=
      (Nat.mod_lt _ (Nat.pos_of_ne_zero hn)).trans_le (Nat.min_le_left _ _)
    cases ho : s.draw.opens with
    | false =>
      exact .inr (.inl ⟨_, rfl, hi, rfl, by simp only [selectFrom, if_neg hn, ho, Bool.false_eq_true, if_false]⟩)
    | true => exact .inr (.inr ⟨_, rfl, hi, rfl, by simp only [selectFrom, if_neg hn, ho, if_true]⟩)

/-- One step of a TE wait keeps the sample, and completes or holds (43_playloop.md R343, R344). -/
theorem teWait_cases (s : State) (level : Bool) :
    (teDone s level = true ∧ teWait s level = complete { s with tePrev := teSeen s.draw.te }) ∨
    (teDone s level = false ∧ teWait s level = stay { s with tePrev := teSeen s.draw.te }) := by
  cases h : teDone s level <;> simp [teWait, h]

/-- One step of a delay that runs already (43_playloop.md R345). -/
theorem delayStep_running {s : State} (t len : Micros) (h : s.dlyActive = true) :
    delayStep s t len =
      if s.dlyLen ≤ t - s.dlyT0 then complete { s with dlyActive := false } else stay s := by
  simp only [delayStep, delayStart, h, if_true]

/-- The first step of a delay: it starts at the sample `t`, and ends there exactly when it has no length
(43_playloop.md R345). -/
theorem delayStep_first {s : State} (t len : Micros) (h : s.dlyActive = false) :
    delayStep s t len =
      if len = 0 then complete { s with dlyT0 := t, dlyLen := len, dlyActive := false }
      else stay { s with dlyT0 := t, dlyLen := len, dlyActive := true } := by
  have h0 : len ≤ t - t ↔ len = 0 := by simp
  simp only [delayStep, delayStart, h, Bool.false_eq_true, if_false, h0]

/-- A settle delay that fits in `dly_len` stands there whole (43_playloop.md R346). -/
theorem toNat_settleLen {s : State} (h : s.par.settleUs < 2 ^ 32) : (settleLen s).toNat = s.par.settleUs := by
  rw [settleLen, if_pos h, BitVec.toNat_ofNat, Nat.mod_eq_of_lt h]

/-- The sleep of PACE is what is left of the budget, never negative (43_playloop.md R349). -/
theorem toNat_paceSleep (s : State) (t : Micros) :
    (paceSleep s t).toNat = s.budgetUs.toNat - (t - s.tStart).toNat := by
  unfold paceSleep
  dsimp only
  by_cases h : t - s.tStart ≤ s.budgetUs
  · rw [if_pos h, BitVec.toNat_sub_of_le h]
  · have h' : s.budgetUs.toNat < (t - s.tStart).toNat := Nat.lt_of_not_le h
    rw [if_neg h, Nat.sub_eq_zero_of_le (Nat.le_of_lt h')]
    rfl

/-- The STATUS word depends on its eleven fields alone (10_state.md R53). -/
theorem status_congr {s t : State} (h₁ : t.upc = s.upc) (h₂ : t.halted = s.halted) (h₃ : t.busMode = s.busMode)
    (h₄ : t.backlight = s.backlight) (h₅ : t.streamOpen = s.streamOpen) (h₆ : t.hdrValid = s.hdrValid)
    (h₇ : t.rateValid = s.rateValid) (h₈ : t.fbValid = s.fbValid) (h₉ : t.iter = s.iter)
    (h₁₀ : t.rateDiag = s.rateDiag) (h₁₁ : t.faultCode = s.faultCode) : status t = status s := by
  unfold status
  rw [h₁, h₂, h₃, h₄, h₅, h₆, h₇, h₈, h₉, h₁₀, h₁₁]

/-- The seek of LOOPCHK holds, seeks or fails (41_loader.md R264). -/
theorem loopSeek_cases (s : State) :
    (s.draw.answers = false ∧ loopSeek s = stay s) ∨
    (s.draw.answers = true ∧ s.draw.seeks = true ∧
      loopSeek s = complete { s.emit (.streamSeek 8 true) with cursor := 8, fss := 0 }) ∨
    (s.draw.answers = true ∧ s.draw.seeks = false ∧
      loopSeek s = raise (s.emit (.streamSeek 8 false)) .seekError 8) := by
  cases ha : s.draw.answers with
  | false => exact .inl ⟨rfl, by simp only [loopSeek, answered_no ha]⟩
  | true =>
    cases hs : s.draw.seeks with
    | false => exact .inr (.inr ⟨rfl, rfl, by simp only [loopSeek, answered_yes ha, hs, Bool.false_eq_true, if_false]⟩)
    | true => exact .inr (.inl ⟨rfl, rfl, by simp only [loopSeek, answered_yes ha, hs, if_true]⟩)

/-- LOAD raises one of its four preconditions' faults, stops where no run comes, or takes a step (41_loader.md R253). -/
theorem execLoad_cases (s : State) :
    (loadReady s = false ∧ ∃ c info, execLoad s = .next (raise s c info)) ∨
    (loadReady s = true ∧ routineOf s.hdrSize = none ∧ execLoad s = .fault .noRoutine) ∨
    (∃ r, loadReady s = true ∧ routineOf s.hdrSize = some r ∧ r.batches ≤ s.bidx.toNat ∧
      execLoad s = .fault .outOfBounds) ∨
    (∃ r, loadReady s = true ∧ routineOf s.hdrSize = some r ∧ s.bidx.toNat < r.batches ∧
      execLoad s = .next (loadStep s r)) := by
  cases hr : loadReady s with
  | false =>
    refine .inl ⟨rfl, ?_⟩
    have hx : execLoad s = .next (loadRefused s) := by simp only [execLoad, hr, Bool.false_eq_true, if_false]
    rw [hx]
    unfold loadRefused
    rcases need_cases (decide (s.busMode = .storage)) .busModeViolation (modeInfo s 0x30) s _ with ⟨-, h⟩ | ⟨-, h⟩
    · rw [h]
      rcases need_cases s.streamOpen .noStream (wordInfo 0x30) s _ with ⟨-, h⟩ | ⟨-, h⟩
      · rw [h]
        rcases need_cases s.hdrValid .noHeader (wordInfo 0x30) s _ with ⟨-, h⟩ | ⟨-, h⟩ <;> exact ⟨_, _, by rw [h]⟩
      · exact ⟨_, _, by rw [h]⟩
    · exact ⟨_, _, by rw [h]⟩
  | true =>
    cases ho : routineOf s.hdrSize with
    | none => exact .inr (.inl ⟨rfl, rfl, by simp only [execLoad, hr, ho, if_true]⟩)
    | some r =>
      by_cases hb : s.bidx.toNat < r.batches
      · exact .inr (.inr (.inr ⟨r, rfl, rfl, hb, by simp only [execLoad, hr, ho, if_true, if_pos hb]⟩))
      · exact .inr (.inr (.inl ⟨r, rfl, rfl, Nat.le_of_not_lt hb, by simp only [execLoad, hr, ho, if_true, if_neg hb]⟩))

/-- What one step can do (42_boot.md R302, 70_reset_and_hazards.md R452, 60_exceptions.md R405). -/
theorem step_cases (s : State) :
    (s.draw.reset = true ∧ step s = .next (resetInput s)) ∨
    (s.draw.reset = false ∧ s.halted = true ∧ step s = .fault .halted) ∨
    (∃ w, s.draw.reset = false ∧ s.halted = false ∧ decodeOp (fetch s) = .illegal w ∧
      step s = .next (illegalWord s w)) ∨
    (∃ i, s.draw.reset = false ∧ s.halted = false ∧ decodeOp (fetch s) = .op i ∧ step s = exec i s) := by
  cases hr : s.draw.reset with
  | true => exact .inl ⟨rfl, by simp only [step, hr, if_true]⟩
  | false =>
    cases hh : s.halted with
    | true => exact .inr (.inl ⟨rfl, rfl, by simp only [step, hr, hh, Bool.false_eq_true, if_false, if_true]⟩)
    | false =>
      cases hd : decodeOp (fetch s) with
      | illegal w =>
        exact .inr (.inr (.inl ⟨w, rfl, rfl, rfl, by simp only [step, hr, hh, hd, Bool.false_eq_true, if_false]⟩))
      | op i =>
        exact .inr (.inr (.inr ⟨i, rfl, rfl, rfl, by simp only [step, hr, hh, hd, Bool.false_eq_true, if_false]⟩))

/-- A fault adds itself to the record, whether the block halts or resets (60_exceptions.md R404). -/
@[simp] theorem fatals_raise (s : State) (c : FatalCode) (info : Word32) :
    fatals (raise s c info).events = c :: fatals s.events := by
  simp [fatals]

/-- The ops of the normative ROM, by address (42_boot.md R300). -/
theorem decodeOp_normativeRom : ∀ u : Fin 32, u.val ≤ 21 →
    decodeOp (normativeRom[u.val]'u.isLt) =
      .op ([Instr.spdS, .select, .spdS, .hdrRd, .hdrDec, .hdrAcc, .rateQ, .hint, .load, .iterBegin, .teRise, .teFall,
        .settle, .spdD, .present, .blOn2, .spdS, .loopchk, .load, .spdD, .pace, .jmp 9].getD u.val .load) := by
  decide

/-- The fetch reads the ROM and `upc` alone. -/
theorem fetch_congr {s t : State} (h₁ : t.rom = s.rom) (h₂ : t.upc = s.upc) : fetch t = fetch s := by
  unfold fetch
  simp only [h₁, h₂]

/-- The draws to come move up by one with every step. -/
theorem drawAhead_pass {s t : State} (h₁ : t.script = s.script.tail) (h₂ : t.tick = s.tick + 1) (k : Nat) :
    t.drawAhead k = s.drawAhead (k + 1) := by
  unfold State.drawAhead
  rw [h₁, h₂, List.drop_tail]
  congr 1
  omega

@[simp] theorem drawAhead_zero (s : State) : s.drawAhead 0 = s.draw := rfl

@[simp] theorem execTimes_zero (i : Instr) (s : State) : execTimes 0 i s = some s := rfl

/-- The first of several steps of one op. -/
theorem execTimes_succ {i : Instr} {s t : State} (h : exec i s = .next t) (n : Nat) :
    execTimes (n + 1) i s = execTimes n i t := by
  simp only [execTimes, h]

/-- The last of several steps of one op. -/
theorem execTimes_last {i : Instr} {n : Nat} {s t u : State} (h₁ : execTimes n i s = some t) (h₂ : exec i t = .next u) :
    execTimes (n + 1) i s = some u := by
  induction n generalizing s with
  | zero =>
    cases h₁
    simp only [execTimes, h₂]
  | succ n ih =>
    cases hx : exec i s with
    | next v =>
      rw [execTimes_succ hx] at h₁ ⊢
      exact ih h₁
    | fault f => simp [execTimes, hx] at h₁
    | refused r => simp [execTimes, hx] at h₁

end Sys2Proof.Machine
end

