-- ==== Sys2Proof/Laws/PerInstr.lean ====
section
/-! SUPPORT. The family TableRow: the word of every micro-op has the fixed bits of its row of spec/opcode_table.json. -/

namespace Sys2Proof.Laws.TableRow

open Sys2Proof

/-- The mask and the match value of a micro-op's row of spec/opcode_table.json, copied from the table. -/
def fixedBits : Instr → Byte × Byte
  | .spdS => (0xFF, 0x01)
  | .spdD => (0xFF, 0x02)
  | .select => (0xFF, 0x10)
  | .hdrRd => (0xFF, 0x20)
  | .hdrDec => (0xFF, 0x21)
  | .hdrAcc => (0xFF, 0x22)
  | .rateQ => (0xFF, 0x23)
  | .hint => (0xFF, 0x24)
  | .load => (0xFF, 0x30)
  | .loopchk => (0xFF, 0x31)
  | .iterBegin => (0xFF, 0x40)
  | .teRise => (0xFF, 0x41)
  | .teFall => (0xFF, 0x42)
  | .settle => (0xFF, 0x43)
  | .present => (0xFF, 0x50)
  | .blOn2 => (0xFF, 0x51)
  | .pace => (0xFF, 0x60)
  | .jmp _ => (0xE0, 0xE0)

/-- The encoding of `i` has the fixed bits of its row (30_encoding.md R130, R131). -/
def Statement (i : Instr) : Prop := encode i &&& (fixedBits i).1 = (fixedBits i).2

theorem spdS : Statement .spdS := by unfold Statement; decide
theorem spdD : Statement .spdD := by unfold Statement; decide
theorem select : Statement .select := by unfold Statement; decide
theorem hdrRd : Statement .hdrRd := by unfold Statement; decide
theorem hdrDec : Statement .hdrDec := by unfold Statement; decide
theorem hdrAcc : Statement .hdrAcc := by unfold Statement; decide
theorem rateQ : Statement .rateQ := by unfold Statement; decide
theorem hint : Statement .hint := by unfold Statement; decide
theorem load : Statement .load := by unfold Statement; decide
theorem loopchk : Statement .loopchk := by unfold Statement; decide
theorem iterBegin : Statement .iterBegin := by unfold Statement; decide
theorem teRise : Statement .teRise := by unfold Statement; decide
theorem teFall : Statement .teFall := by unfold Statement; decide
theorem settle : Statement .settle := by unfold Statement; decide
theorem present : Statement .present := by unfold Statement; decide
theorem blOn2 : Statement .blOn2 := by unfold Statement; decide
theorem pace : Statement .pace := by unfold Statement; decide

theorem jmp (t : Nat) : Statement (.jmp t) := by
  have h : ∀ x : BitVec 5, (0b111#3 ++ x) &&& (0xE0 : Byte) = 0xE0 := by decide
  exact h (BitVec.ofNat 5 t)

end Sys2Proof.Laws.TableRow
end

