-- ==== Sys2Proof/Tests/Slice0.lean ====
section
/-! SUPPORT. Tests of the model: the smoke test of WellFormed, the words of 30_encoding.md R131 bit by bit, the vectors
of 95_test_vectors.md as single steps, and for every obligation with hypotheses a state that meets them. -/

namespace Sys2Proof.Tests

open Sys2Proof Sys2Proof.Machine

/-! ### Helpers -/

/-- What a next state satisfies; false of a stop. -/
def nextIs (o : Host.Outcome State Fault Refusal) (p : State → Bool) : Bool :=
  match o with
  | .next t => p t
  | .fault _ => false
  | .refused _ => false

/-- Parameters with every value given. -/
def par : Params where
  storageHz := 400000
  displayHz := 8000000
  settleUs := 100
  ratePolicy := .strict
  teEdgeMode := .strict
  syncStages := 2
  fatalAction := .halt
  maxFiles := 2
  ext := ['l', 'u']
  refreshHint := [((60, 24), 0x0030)]

/-- An answer without a failure. -/
def ok : Draw where
  reset := false
  elapsed := 0
  te := false
  answers := true
  dir := some [⟨['l', 'u'], false, [10]⟩, ⟨['l', 'u'], false, [11]⟩, ⟨['l', 'u'], false, [12]⟩]
  rng := 7
  opens := true
  read := some 4096
  seeks := true
  presents := true
  actualHz := 12345

/-- The state after reset with the parameters above and the answer `d` to the next step. -/
def st (d : Draw) : State := { State.reset with par := par, script := [d] }

/-- A state in Storage mode, with a stream open on `file`. -/
def opened (d : Draw) (file : List Byte) : State :=
  { st d with busMode := .storage, streamOpen := true, file := file }

/-- A state whose header registers are valid. -/
def headed (d : Draw) (size rate : Byte) (count : BitVec 16) (file : List Byte) : State :=
  { opened d file with
    hbufValid := true, hdrValid := true, hdrEncoding := 1, hdrSize := size, hdrRate := rate, hdrCount := count,
    cursor := 8 }

/-- The header of L1-2 of 95_test_vectors.md. -/
def header : Vector Byte 8 := #v[0x4C, 0x55, 0x00, 0x01, 0x3C, 0x18, 0x02, 0x00]

/-- A fault was latched: its code and info. -/
def latched (t : State) (code : Byte) (info : Word32) : Bool :=
  t.halted && decide (t.faultCode = code) && decide (t.faultInfo = info)

/-! ### WellFormed: what it refuses -/

theorem test_wf_jump_target_32 : Instr.wf (.jmp 32) = false := by decide
theorem test_wf_jump_target_31 : Instr.wf (.jmp 31) = true := by decide
theorem test_wf_program_too_long : wfProgram (List.replicate 33 .pace) = false := by decide
theorem test_wf_program_bad_jump : wfProgram [.spdS, .jmp 32] = false := by decide
theorem test_wf_normative_program : wfProgram [.spdS, .select, .jmp 9] = true := by decide

/-! ### Decode: every word of 30_encoding.md R131, and the edges of R133 -/

theorem test_decode_spdS : decodeOp 0b00000001#8 = .op .spdS := by decide
theorem test_decode_spdD : decodeOp 0b00000010#8 = .op .spdD := by decide
theorem test_decode_select : decodeOp 0b00010000#8 = .op .select := by decide
theorem test_decode_hdrRd : decodeOp 0b00100000#8 = .op .hdrRd := by decide
theorem test_decode_hdrDec : decodeOp 0b00100001#8 = .op .hdrDec := by decide
theorem test_decode_hdrAcc : decodeOp 0b00100010#8 = .op .hdrAcc := by decide
theorem test_decode_rateQ : decodeOp 0b00100011#8 = .op .rateQ := by decide
theorem test_decode_hint : decodeOp 0b00100100#8 = .op .hint := by decide
theorem test_decode_load : decodeOp 0b00110000#8 = .op .load := by decide
theorem test_decode_loopchk : decodeOp 0b00110001#8 = .op .loopchk := by decide
theorem test_decode_iterBegin : decodeOp 0b01000000#8 = .op .iterBegin := by decide
theorem test_decode_teRise : decodeOp 0b01000001#8 = .op .teRise := by decide
theorem test_decode_teFall : decodeOp 0b01000010#8 = .op .teFall := by decide
theorem test_decode_settle : decodeOp 0b01000011#8 = .op .settle := by decide
theorem test_decode_present : decodeOp 0b01010000#8 = .op .present := by decide
theorem test_decode_blOn2 : decodeOp 0b01010001#8 = .op .blOn2 := by decide
theorem test_decode_pace : decodeOp 0b01100000#8 = .op .pace := by decide
theorem test_decode_jmp_low : decodeOp 0b11100000#8 = .op (.jmp 0) := by decide
theorem test_decode_jmp_high : decodeOp 0b11111111#8 = .op (.jmp 31) := by decide

/-- The lowest and the highest word of every range of 30_encoding.md R133. -/
theorem test_decode_illegal_ranges :
    ∀ w ∈ [0x00#8, 0x03#8, 0x0F#8, 0x11#8, 0x1F#8, 0x25#8, 0x2F#8, 0x32#8, 0x3F#8, 0x44#8, 0x4F#8, 0x52#8, 0x5F#8,
      0x61#8, 0xDF#8], decodeOp w = .illegal w := by decide

theorem test_decode_bytes_keeps_the_rest : decodeBytes [0xE9, 0x01] = .ok (.jmp 9, [0x01]) := by rfl
theorem test_decode_bytes_empty : decodeBytes [] = .error .noWord := by rfl

/-! ### The step -/

/-- A word placed where the step fetches is the instruction the step runs (notes/assumptions/1.md). -/
theorem test_step_placed_jump :
    nextIs (step (State.withFetchWord (st ok) 8 0xE9)) (fun t => decide (t.upc = 9)) = true := by decide

/-- P6 of 95_test_vectors.md: the word 0x00 at upc 3 faults with ILLEGAL_OP. -/
theorem test_step_illegal_word :
    nextIs (step (State.withFetchWord { st ok with upc := 3 } 8 0x00))
      (fun t => latched t 0x31 0 && decide (t.faultUpc = 3) && decide (status t = 0x31000023)) = true := by decide

/-- P5 of 95_test_vectors.md: a storage op before any speed switch. -/
theorem test_step_select_unset :
    nextIs (step (State.withFetchWord (st ok) 8 0x10))
      (fun t => latched t 0x30 0x10 && decide (status t = 0x30000020) && !t.streamOpen) = true := by decide

theorem test_step_halted : step { st ok with halted := true } = .fault .halted := by rfl

/-- 95_test_vectors.md section 2.10: under Reset the block starts again at address 0. -/
theorem test_fault_resets :
    nextIs (step (State.withFetchWord { st ok with upc := 3, par := { par with fatalAction := .reset } } 8 0x00))
      (fun t => decide (status t = 0) && decide (t.events = [.fatal .illegalOp 3 0])) = true := by decide

theorem test_reset_input :
    nextIs (step { st { ok with reset := true } with halted := true, upc := 9 }) (fun t => decide (status t = 0))
      = true := by decide

/-- STATUS of P1 of 95_test_vectors.md. -/
theorem test_status_p1 :
    status { headed ok 240 8 3 [] with upc := 7, rateValid := true } = 0x00000E47 := by decide

/-! ### The micro-ops: the vectors of 95_test_vectors.md, one step each -/

theorem test_spdS :
    nextIs (exec .spdS (st ok))
      (fun t => decide (t.busMode = .storage) && decide (t.events = [.busSetSpeed 400000 12345])) = true := by decide

theorem test_spdD :
    nextIs (exec .spdD { st ok with busMode := .storage })
      (fun t => decide (t.busMode = .display) && decide (t.events = [.busSetSpeed 8000000 12345])) = true := by decide

/-- A list of 3, P_MAX_FILES 2 and r = 5 give index 1. -/
theorem test_select_bounded :
    nextIs (exec .select { st { ok with rng := 5 } with busMode := .storage })
      (fun t => decide (t.selIndex = 1) && t.streamOpen && decide (t.file = [11]) && decide (t.cursor = 0)) = true := by
  decide

/-- An empty list faults before RngNext. -/
theorem test_select_no_files :
    nextIs (exec .select { st { ok with dir := some [⟨['x'], false, []⟩, ⟨['l', 'u'], true, []⟩] } with
        busMode := .storage })
      (fun t => latched t 0x10 0 && decide (t.events = [.fatal .noFiles 0 0, .dirEnumerate true])) = true := by decide

theorem test_hdrRd :
    nextIs (exec .hdrRd (opened ok [0x4C, 0x55, 0x00, 0x01, 0x78, 0x0C, 0x0A, 0x00, 0xAA]))
      (fun t => decide (t.hdrBuf = #v[0x4C, 0x55, 0x00, 0x01, 0x78, 0x0C, 0x0A, 0x00]) && t.hbufValid &&
        decide (t.cursor = 8)) = true := by decide

theorem test_hdrRd_short :
    nextIs (exec .hdrRd (opened ok [1, 2, 3, 4, 5])) (fun t => latched t 0x14 5 && !t.hbufValid) = true := by decide

theorem test_hdrDec :
    nextIs (exec .hdrDec { st ok with hdrBuf := header, hbufValid := true })
      (fun t => decide (t.hdrSize = 60) && decide (t.hdrRate = 24) && decide (t.hdrCount = 2) && t.hdrValid) = true := by
  decide

theorem test_hdrDec_bad_rate :
    nextIs (exec .hdrDec { st ok with hdrBuf := header.set 5 0x19, hbufValid := true })
      (fun t => latched t 0x05 0x3C19 && !t.hdrValid) = true := by decide

theorem test_hdrAcc_encoding_first :
    nextIs (exec .hdrAcc { headed ok 60 24 0 [] with hdrEncoding := 0 }) (fun t => latched t 0x21 0) = true := by decide

theorem test_hdrAcc_zero_count :
    nextIs (exec .hdrAcc (headed ok 60 24 0 [])) (fun t => latched t 0x20 0) = true := by decide

theorem test_rateQ_clamp :
    nextIs (exec .rateQ (headed ok 120 16 2 []))
      (fun t => decide (t.rateQ = 12) && decide (t.budgetUs = 83133) && decide (t.rateDiag = .none)) = true := by decide

theorem test_rateQ_too_high :
    nextIs (exec .rateQ (headed ok 60 18 2 []))
      (fun t => decide (t.rateQ = 15) && decide (t.budgetUs = 66466) && decide (t.rateDiag = .tooHigh)) = true := by
  decide

theorem test_hint :
    nextIs (exec .hint { headed ok 60 24 2 [] with rateValid := true, rateQ := 24 })
      (fun t => decide (t.refreshHint = 0x10030)) = true := by decide

theorem test_hint_none :
    nextIs (exec .hint { headed ok 120 24 2 [] with rateValid := true, rateQ := 24, refreshHint := 1 })
      (fun t => decide (t.refreshHint = 0)) = true := by decide

theorem test_load_bus :
    nextIs (exec .load { headed ok 60 24 2 [] with busMode := .display }) (fun t => latched t 0x30 0x230) = true := by
  decide

/-- A file of 100 bytes past the cursor: SHORT_READ with the count. -/
theorem test_load_short :
    nextIs (exec .load { headed ok 60 24 2 (List.replicate 108 0) with bidx := 1 })
      (fun t => latched t 0x14 100 && decide (t.bidx = 1) && decide (t.fss = 0) && !t.fbValid) = true := by decide

theorem test_loopchk_seeks :
    nextIs (exec .loopchk { headed ok 60 24 5 [] with fss := 5, cursor := 99 })
      (fun t => decide (t.cursor = 8) && decide (t.fss = 0) && decide (t.events = [.streamSeek 8 true])) = true := by
  decide

theorem test_loopchk_error :
    nextIs (exec .loopchk { headed { ok with seeks := false } 60 24 5 [] with fss := 5, cursor := 99 })
      (fun t => latched t 0x15 8 && decide (t.fss = 5) && decide (t.cursor = 99)) = true := by decide

theorem test_iterBegin_saturates :
    nextIs (exec .iterBegin { st { ok with elapsed := 5 } with iter := 3, tePrev := 0b11, time := 4294967295 })
      (fun t => decide (t.iter = 3) && decide (t.tStart = 4) && decide (t.tePrev = 0b00)) = true := by decide

theorem test_teRise_edge :
    nextIs (exec .teRise { st { ok with te := true } with tePrev := 0b10 })
      (fun t => decide (t.upc = 1) && decide (t.tePrev = 0b11)) = true := by decide

theorem test_teRise_first_high :
    nextIs (exec .teRise (st { ok with te := true }))
      (fun t => decide (t.upc = 0) && decide (t.tePrev = 0b11)) = true := by decide

theorem test_teFall_edge :
    nextIs (exec .teFall { st ok with tePrev := 0b11 })
      (fun t => decide (t.upc = 1) && decide (t.tePrev = 0b10)) = true := by decide

theorem test_teFall_first_low :
    nextIs (exec .teFall (st ok)) (fun t => decide (t.upc = 0) && decide (t.tePrev = 0b10)) = true := by decide

/-- The wrap of the timebase: 0x24 − 0xFFFFFFC0 is 100. -/
theorem test_phase_pace : phase { st ok with upc := 20 } = some (.playLoop .step5) := by decide

theorem test_settle_wrap :
    nextIs (exec .settle { st { ok with elapsed := 0x24 } with
        time := 4294967296, dlyActive := true, dlyT0 := 0xFFFFFFC0, dlyLen := 100 })
      (fun t => decide (t.upc = 1) && !t.dlyActive) = true := by decide

theorem test_settle_starts :
    nextIs (exec .settle { st ok with time := 5000 })
      (fun t => decide (t.upc = 0) && t.dlyActive && decide (t.dlyT0 = 5000) && decide (t.dlyLen = 100)) = true := by
  decide

theorem test_present_bus :
    nextIs (exec .present { st ok with busMode := .storage }) (fun t => latched t 0x30 0x150) = true := by decide

theorem test_present_unwritten :
    nextIs (exec .present { st ok with busMode := .display }) (fun t => latched t 0x36 0x50) = true := by decide

theorem test_blOn2 :
    nextIs (exec .blOn2 { st ok with iter := 2 })
      (fun t => t.backlight && decide (t.events = [.dispBacklight true])) = true := by decide

theorem test_blOn2_third :
    nextIs (exec .blOn2 { st ok with iter := 3 }) (fun t => !t.backlight && decide (t.events = [])) = true := by decide

theorem test_pace_sleeps :
    nextIs (exec .pace { st ok with
        rateValid := true, tsValid := true, budgetUs := 41466, tStart := 1000, time := 21000 })
      (fun t => decide (t.paceSleepUs = 21466) && t.dlyActive && decide (t.upc = 0)) = true := by decide

/-- The elapsed time wraps: 0x100 − 0xFFFFFF00 is 512. -/
theorem test_pace_wrap :
    nextIs (exec .pace { st ok with
        rateValid := true, tsValid := true, budgetUs := 124800, tStart := 0xFFFFFF00, time := 4294967552 })
      (fun t => decide (t.paceSleepUs = 124288)) = true := by decide

theorem test_jmp : nextIs (exec (.jmp 9) { st ok with upc := 21 }) (fun t => decide (t.upc = 9)) = true := by decide

theorem test_complete_wraps : nextIs (exec .spdS { st ok with upc := 31 }) (fun t => decide (t.upc = 0)) = true := by
  decide

/-! ### The codec and the blit map -/

/-- L1-1 of 95_test_vectors.md. -/
theorem test_encode :
    encodeHeader ⟨0, 1, 240, 4, 256⟩ = #v[0x4C, 0x55, 0x00, 0x01, 0xF0, 0x04, 0x00, 0x01] := by decide

/-- The order of the checks, section 2.1 of 95_test_vectors.md. -/
theorem test_decode_order :
    decodeHeader #v[0x4C, 0x55, 0x00, 0x07, 0, 0, 0, 0] .lenient = .err .badEncoding ∧
      decodeHeader #v[0x4C, 0x55, 0x00, 0x01, 0, 0, 1, 0] .strict = .err .badSize ∧
      decodeHeader #v[0x4C, 0x55, 0x00, 0x01, 0x3C, 0xFF, 1, 0] .lenient = .ok ⟨0, 1, 60, 255, 1⟩ := by decide

/-- The SB offsets of section 2.3 of 95_test_vectors.md, of the high byte of FB pixels (7, 5), (239, 119), (0, 120),
(239, 239), (100, 31), (239, 239), (10, 9) and (239, 239). -/
theorem test_blit_map :
    blitSource 60 30 4 0 2414 = 122 ∧ blitSource 60 30 4 0 57598 = 3598 ∧ blitSource 60 30 4 1 57600 = 0 ∧
      blitSource 60 30 4 1 115198 = 3598 ∧ blitSource 120 15 2 1 15080 = 100 ∧
      blitSource 120 15 2 7 115198 = 3598 ∧ blitSource 240 8 1 1 4340 = 500 ∧ blitSource 240 8 1 29 115198 = 3838 := by
  decide

/-- The geometry of 41_loader.md R250, R251. -/
theorem test_geometry :
    [Routine.blit60, .blit120, .blit240].map Routine.batchBytes = [3600, 3600, 3840] ∧
      [Routine.blit60, .blit120, .blit240].map Routine.frameBytes = [7200, 28800, 115200] ∧
      [Routine.blit60, .blit120, .blit240].map Routine.batches = [2, 8, 30] := by decide

/-- Writing and forgetting bytes keeps the canonical form. -/
theorem test_memory :
    Memory.writeBytes [(0, 9), (7, 8)] 3 [1, 2] = [(0, 9), (3, 1), (4, 2), (7, 8)] ∧
      Memory.forget [(0, 9), (3, 1), (7, 8)] 0 4 = [(7, 8)] ∧
      Memory.readRange [(0, 9), (2, 8)] 0 4 = [some 9, none, some 8, none] ∧
      Memory.wf 8 [(3, 1), (3, 2)] = false ∧ Memory.wf 8 [(8, 1)] = false := by decide

/-! ### Witnesses: for every obligation with hypotheses, inputs that meet them, clause by clause -/

/-- A file of a size-60 header and one frame of zeros. -/
def file60 : List Byte := List.replicate 7208 0

/-- FB with a zero at every address. -/
def zeroFb : Memory := Memory.fill [] 0 fbBytes (fun _ => some 0)

theorem length_file60 : file60.length = 7208 := List.length_replicate ..

theorem read_file60 {i : Nat} (h : i < 7208) : file60[i]? = some 0 := by
  unfold file60
  rw [List.getElem?_replicate, if_pos h]

theorem wf_zeroFb : Memory.wf fbBytes zeroFb = true :=
  Memory.wf_fill _ (by decide : Memory.wf fbBytes [] = true) (by decide)

theorem read_zeroFb {a : Nat} (h : a < fbBytes) : Memory.read zeroFb a = some 0 := by
  unfold zeroFb
  rw [Memory.read_fill _ (by decide : Memory.wf fbBytes [] = true), if_pos ⟨Nat.zero_le _, by omega⟩]

theorem witness_DecodeEncodeRoundTrip :
    Instr.wf (.jmp 0) = true ∧ Instr.wf (.jmp 31) = true ∧ decodeOp 0xFF = .op (.jmp 31) ∧
      decodeOp 0x60 = .op .pace := by decide

theorem witness_IllegalWordsFaultAtFetch :
    ∃ s : State, s.draw.reset = false ∧ s.halted = false ∧ decodeOp (fetch s) = .illegal (fetch s) :=
  ⟨{ st ok with upc := 22 }, by decide⟩

theorem witness_StepRunsTheDecodedOp :
    (st ok).draw.reset = false ∧ { st ok with halted := true : State }.halted = true ∧
      decodeOp (fetch { st ok with upc := 31 }) = .illegal 0x00 ∧ decodeOp (fetch (st ok)) = .op .spdS ∧
      decodeOp (fetch { st ok with upc := 21 }) = .op (.jmp 9) := by decide

theorem witness_PlacedWordRunsNext :
    decodeTableWord 8 0x01 = some .spdS ∧ decodeTableWord 8 0xE0 = some (.jmp 0) ∧
      decodeTableWord 8 0xFF = some (.jmp 31) ∧ decodeTableWord 8 0x00 = none := by decide

theorem witness_HeaderRoundTrip :
    supportedRate 60 24 = true ∧ supportedRate 120 12 = true ∧ supportedRate 240 8 = true ∧
      decodeHeader header .strict = .ok ⟨0, 1, 60, 24, 2⟩ ∧
      decodeHeader (header.set 5 0) .lenient = .ok ⟨0, 1, 60, 0, 2⟩ := by decide

theorem witness_HeaderMutationsAreNamed :
    decodeHeader header .strict = .ok ⟨0, 1, 60, 24, 2⟩ ∧ (0x4D : Byte) ≠ 0x4C ∧ (0x54 : Byte) ≠ 0x55 ∧
      (1 : Byte) ≠ 0 ∧ 2 ≤ (2 : Byte).toNat ∧ (61 : Byte) ≠ 60 ∧ (61 : Byte) ≠ 120 ∧ (61 : Byte) ≠ 240 ∧
      supportedRate 60 25 = false := by decide

theorem witness_RateCheckIsStrictOnly :
    decodeHeader (header.set 5 0x19) .strict = .err .badFrameRate ∧
      decodeHeader (header.set 5 0xFF) .lenient = .ok ⟨0, 1, 60, 255, 2⟩ := by decide

theorem witness_HdrDecDecodesTheHeader :
    (st ok).hbufValid = false ∧ { st ok with hbufValid := true : State }.hbufValid = true ∧
      decodeHeader (header.set 0 0x4D) par.ratePolicy = .err .badMagic ∧
      decodeHeader header par.ratePolicy = .ok ⟨0, 1, 60, 24, 2⟩ := by decide

theorem witness_HdrAccAcceptsPlayableHeaders :
    (st ok).hdrValid = false ∧ (headed ok 60 24 1 []).hdrValid = true ∧
      { headed ok 60 24 1 [] with hdrEncoding := 0 : State }.hdrEncoding ≠ 1 ∧
      (headed ok 60 24 1 []).hdrEncoding = 1 ∧ (headed ok 60 24 0 []).hdrCount = 0 ∧
      (headed ok 60 24 1 []).hdrCount ≠ 0 := by decide

/-- The lowest and the highest raw rate of the first and the last row, and of the two rows of the unlisted rates. -/
theorem witness_RateQFollowsTheRateTable :
    (st ok).hdrValid = false ∧ (headed ok 60 0 1 []).hdrValid = true ∧ routineOf 60 = some .blit60 ∧
      routineOf 120 = some .blit120 ∧ routineOf 240 = some .blit240 ∧
      (∃ row ∈ rateTable, row.lo = 0 ∧ row.hi = 0) ∧ (∃ row ∈ rateTable, row.lo = 17 ∧ row.hi = 18) ∧
      ∃ row ∈ rateTable, row.lo ≤ (255 : Byte).toNat ∧ (255 : Byte).toNat ≤ row.hi := by decide

theorem witness_RateQCompletesOnEverySize :
    (headed ok 0 255 1 []).hdrValid = true ∧ routineOf (headed ok 0 255 1 []).hdrSize = none := by decide

theorem witness_QuantizedRatesAreSupported :
    supportedRate 240 8 = true ∧ supportedRate 240 1 = true ∧ supportedRate 60 24 = true ∧ supportedRate 60 7 = false := by
  decide

theorem witness_HintLatchesTheTableValue :
    (st ok).hdrValid = false ∧ (headed ok 60 24 1 []).hdrValid = true ∧ (headed ok 60 24 1 []).rateValid = false ∧
      { headed ok 60 24 1 [] with rateValid := true : State }.rateValid = true ∧
      lookupHint par 60 24 = some 0x0030 ∧ lookupHint par 120 24 = none := by decide

theorem witness_SpeedSwitchesSetTheBusMode :
    (st ok).draw.answers = true ∧ (st { ok with answers := false }).draw.answers = false := by decide

theorem witness_SelectOpensTheDrawnCandidate :
    (st ok).busMode ≠ .storage ∧ (opened ok []).busMode = .storage ∧ (opened ok []).draw.answers = true ∧
      dirEnumerate (opened { ok with dir := none } []) = none ∧
      dirEnumerate (opened { ok with dir := some [] } []) = some [] ∧
      dirEnumerate (opened ok []) = some [[10], [11], [12]] ∧ min 3 par.maxFiles ≠ 0 ∧
      (opened { ok with opens := false } []).draw.opens = false ∧ (opened ok []).draw.opens = true := by decide

/-- A read error, a count of 7 and of 8. -/
theorem witness_HdrRdReadsEightBytes :
    (st ok).busMode ≠ .storage ∧ (opened ok []).busMode = .storage ∧ (st ok).streamOpen = false ∧
      (opened ok []).streamOpen = true ∧ (opened ok []).draw.answers = true ∧
      (opened { ok with read := none } []).draw.read = none ∧ (opened ok []).draw.read = some 4096 ∧
      min (min 4096 8) ([1, 2, 3, 4, 5, 6, 7].length - 0) = 7 ∧
      min (min 4096 8) ([1, 2, 3, 4, 5, 6, 7, 8].length - 0) = 8 := by decide

theorem witness_BusClassesNeedTheirMode :
    (st ok).busMode ≠ .storage ∧ (st ok).busMode ≠ .display ∧
      Instr.pace ∉ [Instr.select, Instr.hdrRd, Instr.load, Instr.loopchk, Instr.present] := by decide

theorem witness_Blits : Memory.wf fbBytes [] = true ∧ Memory.wf fbBytes [(115199, 1)] = true := by decide

theorem witness_LoadChecksItsPreconditions :
    (st ok).busMode ≠ .storage ∧ (opened ok []).busMode = .storage ∧ (st ok).streamOpen = false ∧
      (opened ok []).streamOpen = true ∧ (opened ok []).hdrValid = false ∧ (headed ok 60 24 1 []).hdrValid = true ∧
      { headed ok 60 24 1 [] with hdrEncoding := 0 : State }.hdrEncoding ≠ 1 ∧
      loadReady (headed ok 61 24 1 []) = true ∧ routineOf (headed ok 61 24 1 []).hdrSize = none ∧
      loadReady { headed ok 60 24 1 [] with bidx := 2 } = true ∧
      Routine.blit60.batches ≤ { headed ok 60 24 1 [] with bidx := 2 : State }.bidx.toNat ∧
      loadReady { headed ok 60 24 1 [] with bidx := 1 } = true ∧
      { headed ok 60 24 1 [] with bidx := 1 : State }.bidx.toNat < Routine.blit60.batches := by decide

/-- The first and the last batch of a size-60 frame. -/
theorem witness_LoadStepMovesOneBatch :
    ∀ b ∈ [0, 1], ∃ (s : State) (k : Nat), loadReady s = true ∧ routineOf s.hdrSize = some .blit60 ∧
      s.bidx.toNat = b ∧ s.bidx.toNat < Routine.blit60.batches ∧ s.draw.answers = true ∧ s.draw.read = some k ∧
      Routine.blit60.batchBytes ≤ k ∧ s.cursor.toNat + Routine.blit60.batchBytes ≤ s.file.length ∧
      Memory.wf fbBytes s.fb = true ∧ Memory.wf sbBytes s.sb = true := by
  intro b hb
  have hl := length_file60
  simp only [List.mem_cons, List.not_mem_nil, or_false] at hb
  rcases hb with rfl | rfl
  · refine ⟨headed ok 60 24 1 file60, 4096, rfl, rfl, rfl, by decide, rfl, rfl, by decide, ?_, rfl, rfl⟩
    show 8 + 3600 ≤ file60.length
    omega
  · refine ⟨{ headed ok 60 24 1 file60 with bidx := 1, cursor := 3608 }, 4096, rfl, rfl, rfl, by decide, rfl, rfl,
      by decide, ?_, rfl, rfl⟩
    show 3608 + 3600 ≤ file60.length
    omega

/-- A read error, and a count of one byte less than a batch. -/
theorem witness_FailedBatchLeavesTheFrame :
    (∃ s : State, loadReady s = true ∧ routineOf s.hdrSize = some .blit60 ∧ s.bidx.toNat < Routine.blit60.batches ∧
      s.draw.answers = true ∧ s.par.fatalAction = .halt ∧ Memory.wf sbBytes s.sb = true ∧ s.draw.read = none) ∧
    (∃ (s : State) (k : Nat), loadReady s = true ∧ routineOf s.hdrSize = some .blit60 ∧
      s.bidx.toNat < Routine.blit60.batches ∧ s.draw.answers = true ∧ s.par.fatalAction = .halt ∧
      Memory.wf sbBytes s.sb = true ∧ s.draw.read = some k ∧
      min (min k Routine.blit60.batchBytes) (s.file.length - s.cursor.toNat) = 3599) := by
  have hl := length_file60
  refine ⟨⟨headed { ok with read := none } 60 24 1 file60, rfl, rfl, by decide, rfl, rfl, rfl, rfl⟩,
    headed { ok with read := some 3599 } 60 24 1 file60, 3599, rfl, rfl, by decide, rfl, rfl, rfl, rfl, ?_⟩
  have e : Routine.blit60.batchBytes = 3600 := rfl
  have hc : (headed { ok with read := some 3599 } 60 24 1 file60).cursor.toNat = 8 := rfl
  have hf : (headed { ok with read := some 3599 } 60 24 1 file60).file.length = 7208 := hl
  rw [e, hc, hf]
  rfl

theorem witness_LoadUpscalesTheWholeFrame :
    ∃ s : State, loadReady s = true ∧ routineOf s.hdrSize = some .blit60 ∧ s.bidx = 0 ∧
      (∀ k, k < Routine.blit60.batches → healthyDraw (s.drawAhead k)) ∧
      s.cursor.toNat + Routine.blit60.frameBytes ≤ s.file.length ∧ s.file.length < 2 ^ 64 ∧
      Memory.wf fbBytes s.fb = true ∧ Memory.wf sbBytes s.sb = true := by
  have hl := length_file60
  have hok : healthyDraw ok := ⟨rfl, rfl, rfl, ⟨4096, rfl, by decide⟩, rfl, rfl⟩
  refine ⟨{ headed ok 60 24 1 file60 with script := [ok, ok] }, rfl, rfl, rfl, ?_, ?_, ?_, rfl, rfl⟩
  · intro k hk
    have hk : k < 2 := hk
    interval_cases k <;> exact hok
  · show 8 + 7200 ≤ file60.length
    omega
  · show file60.length < 2 ^ 64
    omega

theorem witness_LoopchkSeeksAtTheLoopPoint :
    (st ok).busMode ≠ .storage ∧ (st ok).streamOpen = false ∧ (opened ok []).busMode = .storage ∧
      (opened ok []).streamOpen = true ∧ (opened ok []).hdrValid = false ∧ (headed ok 60 24 1 []).hdrValid = true ∧
      (headed ok 60 24 1 []).fss ≠ (headed ok 60 24 1 []).hdrCount ∧
      (headed ok 60 24 0 []).fss = (headed ok 60 24 0 []).hdrCount ∧ (headed ok 60 24 0 []).draw.answers = true ∧
      (headed ok 60 24 0 []).draw.seeks = true ∧
      (headed { ok with seeks := false } 60 24 0 []).draw.seeks = false := by decide

theorem witness_TeEdges :
    (st ok).draw.te = false ∧ (st { ok with te := true }).draw.te = true ∧ (st ok).par.teEdgeMode = .strict ∧
      { st ok with tePrev := 0b10 : State }.tePrev = 0b10 ∧ { st ok with tePrev := 0b11 : State }.tePrev = 0b11 ∧
      { st ok with par := { par with teEdgeMode := .level } : State }.par.teEdgeMode = .level := by decide

/-- One hold at a low sample, then a high one. -/
theorem witness_StrictRiseSeesLowThenHigh :
    ∃ (s t : State), s.par.teEdgeMode = .strict ∧ s.tePrev = 0b00 ∧
      (∀ k, k ≤ 1 → ∃ u, execTimes k .teRise s = some u ∧ u.upc = s.upc) ∧ execTimes 2 .teRise s = some t ∧
      t.upc = s.upc + 1 := by
  refine ⟨{ st ok with script := [ok, { ok with te := true }] }, _, rfl, rfl, ?_, rfl, rfl⟩
  intro k hk
  interval_cases k
  · exact ⟨_, rfl, rfl⟩
  · exact ⟨_, rfl, rfl⟩

/-- The samples one below the length, at the length, and a length of 0. -/
theorem witness_SettleDelaysByTheTimebase :
    (st ok).dlyActive = false ∧ { st ok with dlyActive := true : State }.dlyActive = true ∧
      (100 : Micros).toNat ≤ ((0x24 : Micros) - 0xFFFFFFC0).toNat ∧
      ((0x23 : Micros) - 0xFFFFFFC0).toNat < (100 : Micros).toNat ∧
      { st ok with par := { par with settleUs := 0 } : State }.par.settleUs = 0 ∧
      { st ok with par := { par with settleUs := 4294967295 } : State }.par.settleUs < 2 ^ 32 ∧
      ¬{ st ok with par := { par with settleUs := 4294967296 } : State }.par.settleUs < 2 ^ 32 := by decide

theorem witness_PresentSendsTheWholeFramebuffer :
    (st ok).busMode ≠ .display ∧ { st ok with busMode := .display : State }.busMode = .display ∧
      (st ok).fbValid = false ∧ { st ok with fbValid := true : State }.fbValid = true ∧
      (st ok).draw.answers = true ∧ (st ok).draw.presents = true ∧
      (st { ok with presents := false }).draw.presents = false := by decide

theorem witness_BacklightComesOnInIterationTwo :
    { st ok with iter := 2 : State }.iter = 2 ∧ (st ok).draw.answers = true ∧ { st ok with iter := 3 : State }.iter ≠ 2 ∧
      (st ok).iter ≠ 2 := by decide

/-- PACE on its first step with and without its valid bits, one microsecond before the budget's end and at it. -/
theorem witness_PaceSleepsTheRestOfTheBudget :
    (st ok).dlyActive = false ∧ (st ok).rateValid = false ∧ (st ok).tsValid = false ∧
      { st ok with rateValid := true : State }.rateValid = true ∧
      { st ok with tsValid := true : State }.tsValid = true ∧
      { st ok with dlyActive := true : State }.dlyActive = true ∧
      (41466 : Micros).toNat ≤ ((135466 : Micros) - 94000).toNat ∧
      ¬(41466 : Micros).toNat ≤ ((135465 : Micros) - 94000).toNat := by decide

/-- The pacing of P2's first iteration: one hold at 21,000, the end at 42,466. -/
theorem witness_PacingIsALowerBound :
    ∃ (s t : State) (start : Nat), s.dlyActive = false ∧ s.rateValid = true ∧ s.tsValid = true ∧
      s.tStart = BitVec.ofNat 32 start ∧ start ≤ s.timeNow ∧ s.timeNow - start ≤ s.budgetUs.toNat ∧
      (∀ k, 1 ≤ k → k ≤ 1 → ∃ u, execTimes k .pace s = some u ∧ u.dlyActive = true) ∧
      execTimes 2 .pace s = some t ∧ t.dlyActive = false := by
  refine ⟨{ st ok with
    script := [{ ok with elapsed := 20000 }, { ok with elapsed := 21466 }],
    time := 1000, tStart := 1000, rateValid := true, tsValid := true, budgetUs := 41466 }, _, 1000, rfl, rfl, rfl, rfl,
    by decide, by decide, ?_, rfl, rfl⟩
  intro k h₁ h₂
  obtain rfl : k = 1 := by omega
  exact ⟨_, rfl, rfl⟩

theorem witness_JmpSetsTheMicroAddress : (0 : Nat) ≤ 31 ∧ (31 : Nat) ≤ 31 := by decide

theorem witness_FaultEntryHaltsOrResets :
    (st ok).par.fatalAction = .halt ∧
      { st ok with par := { par with fatalAction := .reset } : State }.par.fatalAction = .reset := by decide

/-- A step that raises a fault, and one that raises none. -/
theorem witness_EveryFaultIsPreciseInUpc :
    (∃ t, exec .select (st ok) = .next t ∧ (st ok).par.fatalAction = .halt ∧ fatals t.events = [.busModeViolation]) ∧
      (∃ t, exec .spdS (st ok) = .next t ∧ fatals t.events = []) ∧
      ∃ t, exec .select { st ok with par := { par with fatalAction := .reset } } = .next t ∧
        fatals t.events = [.busModeViolation] :=
  ⟨⟨_, rfl, rfl, rfl⟩, ⟨_, rfl, rfl⟩, _, rfl, rfl⟩

theorem witness_ResetInputResetsTheBlock : (st { ok with reset := true }).draw.reset = true := by decide

theorem witness_UnansweredTransactionsHold :
    let s := { headed { ok with answers := false } 60 24 0 [] with fbValid := true, iter := 2 }
    s.draw.answers = false ∧ s.busMode = .storage ∧ s.streamOpen = true ∧ loadReady s = true ∧
      routineOf s.hdrSize = some .blit60 ∧ s.bidx.toNat < Routine.blit60.batches ∧ s.hdrValid = true ∧
      s.fss = s.hdrCount ∧ { s with busMode := .display : State }.busMode = .display ∧ s.fbValid = true ∧
      s.iter = 2 := by decide

theorem witness_Steps : ∃ t, step (st ok) = .next t := ⟨_, rfl⟩

/-- A next state of a writer and of another op, under Halt. -/
theorem witness_RegistersHaveTheirWriters :
    (∃ t, exec .spdS (st ok) = .next t ∧ t.busMode ≠ (st ok).busMode) ∧ (∃ t, exec .pace (st ok) = .next t) ∧
      (st ok).par.fatalAction = .halt ∧
      ∃ t, exec .settle { st ok with par := { par with fatalAction := .reset } } = .next t ∧ fatals t.events = [] :=
  ⟨⟨_, rfl, by decide⟩, ⟨_, rfl⟩, rfl, _, rfl, rfl⟩

/-- The state after reset meets the invariant. -/
theorem inv_st (d : Draw) : (st d).Inv where
  fbWf := rfl
  sbWf := rfl
  header := by simp [st, State.reset]
  loading := by simp [st, State.reset]
  frame := by simp [st, State.reset]
  rate := by simp [st, State.reset]
  delay := by simp [st, State.reset]
  tePrev := by simp [st, State.reset]
  latch := by simp [st, State.reset]
  backlight := by simp [st, State.reset]

theorem witness_EveryStepKeepsTheInvariant : ∃ s t : State, s.Inv ∧ step s = .next t := ⟨st ok, _, inv_st ok, rfl⟩

/-- A halted state of the invariant, and one that takes a step. -/
theorem witness_OnlyTheHaltedStateStops :
    (∃ s : State, s.Inv ∧ s.halted = true ∧ s.draw.reset = false) ∧ ∃ s : State, s.Inv ∧ s.halted = false := by
  refine ⟨⟨{ st ok with halted := true, faultCode := 0x31 }, ?_, rfl, rfl⟩, st ok, inv_st ok, rfl⟩
  exact { inv_st ok with latch := by decide }

/-- The size-60 header registers with one frame loaded, at PRESENT. -/
def atPresent : State :=
  { headed ok 60 24 1 file60 with
    upc := 14, busMode := .display, rateValid := true, rateQ := 24, budgetUs := 41466, fbValid := true, fb := zeroFb,
    tsValid := true, iter := 1, fss := 1, cursor := 7208 }

theorem inv_atPresent : atPresent.Inv where
  fbWf := wf_zeroFb
  sbWf := rfl
  header := fun _ => ⟨rfl, .inr rfl, .blit60, rfl, by decide, fun a h => by simp [atPresent, headed, opened, st, State.reset] at h⟩
  loading := by simp [atPresent, headed, opened, st, State.reset]
  frame := fun _ a h => by
    show (Memory.read zeroFb a).isSome = true
    rw [read_zeroFb h]
    rfl
  rate := fun _ => by decide
  delay := by simp [atPresent, headed, opened, st, State.reset]
  tePrev := by decide
  latch := by simp [atPresent, headed, opened, st, State.reset]
  backlight := by simp [atPresent, headed, opened, st, State.reset]

/-- A PRESENT that sends a frame of zeros. -/
theorem witness_PresentedFramesAreWhole :
    ∃ s t : State, ∃ frame, s.Inv ∧ exec .present s = .next t ∧ runs s .present ∧ .dispPresent frame true ∈ t.events ∧
      .dispPresent frame true ∉ s.events :=
  ⟨atPresent, _, _, inv_atPresent, rfl, rfl, List.mem_cons_self, by simp [atPresent, headed, opened, st, State.reset]⟩

theorem romInv_st (d : Draw) : (st d).RomInv where
  inv := inv_st d
  rom := rfl
  upcLe := by simp [st, State.reset]
  storage := by simp [st, State.reset]
  display := by simp [st, State.reset]
  stream := by simp [st, State.reset]
  headerBytes := by simp [st, State.reset]
  headerRegs := by simp [st, State.reset]
  accepted := by simp [st, State.reset]
  rated := by simp [st, State.reset]
  primed := by simp [st, State.reset]
  stamped := by simp [st, State.reset]
  opened := by simp [st, State.reset]
  behindHeader := by simp [st, State.reset]
  unloaded := by simp [st, State.reset]
  counted := by simp [st, State.reset]
  beforeLast := by simp [st, State.reset]
  cursorAt := by simp [st, State.reset]

theorem witness_EveryStepKeepsTheRomInvariant : ∃ s t : State, s.RomInv ∧ step s = .next t :=
  ⟨st ok, _, romInv_st ok, rfl⟩

/-- Under the normative ROM a run from reset raises NO_FILES, which is no model check. -/
theorem witness_NormativeRomRaisesNoModelCheck :
    ∃ t, Sys2Proof.core.run 2 { State.reset with par := par, script := [ok, { ok with dir := some [] }] } = .next t ∧
      fatals t.events = [.noFiles] := ⟨_, rfl, rfl⟩

theorem witness_RomStepsRaiseNoModelCheck : ∃ s t : State, s.RomInv ∧ step s = .next t := ⟨st ok, _, romInv_st ok, rfl⟩

theorem witness_PhaseFollowsTheMicroAddress :
    (st ok).halted = false ∧ { st ok with halted := true : State }.halted = true ∧
      ∀ u ∈ [0, 1, 2, 7, 8, 9, 12, 13, 15, 16, 18, 19, 20, 21], ∃ s : State, s.halted = false ∧ s.upc.toNat = u := by
  refine ⟨rfl, rfl, fun u hu => ⟨{ st ok with upc := BitVec.ofNat 5 u }, rfl, ?_⟩⟩
  revert u
  decide

theorem witness_FormatErrorsLatchTheBytes :
    ∀ e, ∃ s : State, s.hbufValid = true ∧ s.par.fatalAction = .halt ∧
      decodeHeader s.hdrBuf s.par.ratePolicy = .err e
  | .badMagic => ⟨{ st ok with hbufValid := true }, rfl, rfl, by decide⟩
  | .badVersion => ⟨{ st ok with hbufValid := true, hdrBuf := #v[0x4C, 0x55, 1, 1, 60, 24, 2, 0] }, rfl, rfl, by decide⟩
  | .badEncoding => ⟨{ st ok with hbufValid := true, hdrBuf := #v[0x4C, 0x55, 0, 2, 60, 24, 2, 0] }, rfl, rfl, by decide⟩
  | .badSize => ⟨{ st ok with hbufValid := true, hdrBuf := #v[0x4C, 0x55, 0, 1, 61, 24, 2, 0] }, rfl, rfl, by decide⟩
  | .badFrameRate => ⟨{ st ok with hbufValid := true, hdrBuf := #v[0x4C, 0x55, 0, 1, 60, 7, 2, 0] }, rfl, rfl, by decide⟩

/-- The same registers at the LOOPCHK that follows. -/
def atLoopchk : State := { atPresent with upc := 17, busMode := .storage }

theorem romInv_atLoopchk : atLoopchk.RomInv where
  inv :=
    { inv_atPresent with
      loading := by simp [atLoopchk, atPresent, headed, opened, st, State.reset]
      delay := by simp [atLoopchk, atPresent, headed, opened, st, State.reset] }
  rom := rfl
  upcLe := by decide
  storage := fun _ _ => rfl
  display := fun _ h => by simp [atLoopchk] at h
  stream := fun _ _ => rfl
  headerBytes := fun _ _ => rfl
  headerRegs := fun _ _ => rfl
  accepted := fun _ _ => ⟨rfl, by decide⟩
  rated := fun _ _ => rfl
  primed := fun _ _ => rfl
  stamped := fun _ _ => rfl
  opened := fun _ _ h => by simp [atLoopchk] at h
  behindHeader := fun _ _ h => by simp [atLoopchk] at h
  unloaded := fun _ _ h => by simp [atLoopchk] at h
  counted := fun _ _ => by decide
  beforeLast := fun _ h => by simp [atLoopchk] at h
  cursorAt := fun _ _ r h => by
    obtain rfl : Routine.blit60 = r := by injection h
    decide

theorem witness_LoopPointWrapsTheFrameIndex :
    atLoopchk.RomInv ∧ atLoopchk.halted = false ∧ atLoopchk.upc.toNat = 17 ∧
      routineOf atLoopchk.hdrSize = some .blit60 ∧ atLoopchk.draw.reset = false ∧ atLoopchk.draw.answers = true ∧
      atLoopchk.draw.seeks = true :=
  ⟨romInv_atLoopchk, rfl, by decide, rfl, rfl, rfl, rfl⟩

theorem romInv_atPresent : atPresent.RomInv where
  inv := inv_atPresent
  rom := rfl
  upcLe := by decide
  storage := fun _ h => by simp [atPresent, headed, opened, st, State.reset] at h
  display := fun _ _ => rfl
  stream := fun _ _ => rfl
  headerBytes := fun _ _ => rfl
  headerRegs := fun _ _ => rfl
  accepted := fun _ _ => ⟨rfl, by decide⟩
  rated := fun _ _ => rfl
  primed := fun _ _ => rfl
  stamped := fun _ _ => rfl
  opened := fun _ _ h => by simp [atPresent] at h
  behindHeader := fun _ _ h => by simp [atPresent] at h
  unloaded := fun _ _ h => by simp [atPresent] at h
  counted := fun _ _ => by decide
  beforeLast := fun _ h => by simp [atPresent] at h
  cursorAt := fun _ _ r h => by
    obtain rfl : Routine.blit60 = r := by injection h
    decide

/-- PRESENT finds the one frame of the file in FB. -/
theorem witness_PlayLoopPresentsTheCountedFrame :
    atPresent.ShowInv ∧ atPresent.halted = false ∧ atPresent.upc.toNat = 14 ∧ atPresent.draw.reset = false ∧
      atPresent.draw.answers = true ∧ atPresent.draw.presents = true := by
  refine ⟨⟨romInv_atPresent, fun _ _ r h x y j hx hy hj => ?_, fun _ h => by simp [atPresent] at h⟩, by decide⟩
  obtain rfl : Routine.blit60 = r := by injection h
  show Memory.read zeroFb (pixelAddr x y j) = file60[8 + (1 - 1) * 7200 + sourceOffset .blit60 x y j]?
  unfold sourceOffset pixelAddr
  have h₁ : Routine.blit60.scale = 4 := rfl
  have h₂ : Routine.blit60.side = 60 := rfl
  rw [read_zeroFb (by unfold fbBytes; omega), read_file60 (by rw [h₁, h₂]; omega)]

/-- Past the header, at PRESENT and (in the same way) at any later address. -/
theorem witness_HealthyPlaybackNeverFaults :
    atPresent.RomInv ∧ atPresent.halted = false ∧ 6 ≤ atPresent.upc.toNat ∧
      routineOf atPresent.hdrSize = some .blit60 ∧ holdsFrames atPresent.file .blit60 atPresent.hdrCount.toNat ∧
      healthyDraw atPresent.draw := by
  refine ⟨romInv_atPresent, rfl, by decide, rfl, ?_, rfl, rfl, rfl, ⟨4096, rfl, by decide⟩, rfl, rfl⟩
  show 8 + 1 * 7200 ≤ file60.length
  rw [length_file60]

end Sys2Proof.Tests
end

namespace Sys2Proof.Machine

open Sys2Proof

/-! ### What a step of an op can do

A step of an op is a record of transactions, then a write of the op's own registers, then one of the ends of
00_scope.md R14. `exec_endsAs` says so once; the statements about writers and about the invariant follow from it. -/

/-- `s` with the transactions `es` put on its record. -/
def State.emitAll (s : State) (es : List Event) : State := { s with events := es ++ s.events }

/-- What a step of an op can write, the sequencer's registers, the latch, the record and the environment apart. -/
inductive Writes (s : State) : Instr → State → Prop where
  | nothing (i : Instr) : Writes s i s
  | busMode {i : Instr} (hi : i = .spdS ∨ i = .spdD) (mode : BusMode) : Writes s i { s with busMode := mode }
  | opened (k : Nat) (file : List Byte) : Writes s .select (openedAt s k file)
  | headerBytes (b : Vector Byte 8) :
    Writes s .hdrRd { s with hdrBuf := b, hbufValid := true, cursor := s.cursor + 8 }
  | cursorLost : Writes s .hdrRd (loseCursor s)
  | header {h : Header} (hd : decodeHeader s.hdrBuf s.par.ratePolicy = .ok h) :
    Writes s .hdrDec
      { s with
        hdrVersion := h.version, hdrEncoding := h.encoding, hdrSize := h.size, hdrRate := h.frameRate,
        hdrCount := h.frameCount, hdrValid := true }
  | rate (raw : Nat) (size : Byte) :
    Writes s .rateQ
      { s with
        rateQ := BitVec.ofNat 8 (quantize raw size).1, budgetUs := BitVec.ofNat 32 (budget (quantize raw size).1),
        rateDiag := (quantize raw size).2, rateValid := true }
  | hint (v : BitVec 17) : Writes s .hint { s with refreshHint := v }
  | batchLost (r : Routine) : Writes s .load (loadLost s r)
  | batchMore {r : Routine} {bytes : List Byte} (hv : s.hdrValid = true) (hr : routineOf s.hdrSize = some r)
      (hl : bytes.length = r.batchBytes) (hb : s.bidx.toNat + 1 < r.batches) :
    Writes s .load
      { s with
        sb := s.sb.writeBytes 0 bytes, cursor := s.cursor + BitVec.ofNat 64 r.batchBytes,
        fb := blit r s.bidx.toNat s.fb (s.sb.writeBytes 0 bytes), bidx := s.bidx + 1 }
  | batchLast {r : Routine} {bytes : List Byte} (hv : s.hdrValid = true) (hr : routineOf s.hdrSize = some r)
      (hl : bytes.length = r.batchBytes) (hb : s.bidx.toNat + 1 = r.batches) :
    Writes s .load
      { s with
        sb := s.sb.writeBytes 0 bytes, cursor := s.cursor + BitVec.ofNat 64 r.batchBytes,
        fb := blit r s.bidx.toNat s.fb (s.sb.writeBytes 0 bytes), bidx := 0, fss := s.fss + 1, fbValid := true }
  | rewound : Writes s .loopchk { s with cursor := 8, fss := 0 }
  | iteration (t : Micros) :
    Writes s .iterBegin { s with iter := nextIter s.iter, tStart := t, tsValid := true, tePrev := 0b00 }
  | sampled {i : Instr} (hi : i = .teRise ∨ i = .teFall) (sample : Bool) :
    Writes s i { s with tePrev := teSeen sample }
  | settleDelay (t₀ len : Micros) (active : Bool) :
    Writes s .settle { s with dlyT0 := t₀, dlyLen := len, dlyActive := active }
  | paceDelay (t₀ len sleep : Micros) (active : Bool) :
    Writes s .pace { s with paceSleepUs := sleep, dlyT0 := t₀, dlyLen := len, dlyActive := active }
  | backlightOn (hi : s.iter = 2) : Writes s .blOn2 { s with backlight := true }

/-- The ends of a step of op `i` that has left its registers as in `u` (00_scope.md R14, 60_exceptions.md R400). A
LOAD completes with no batch left to do, SETTLE and PACE with no delay running. -/
inductive Ends (i : Instr) (u : State) : State → Prop where
  | stays : Ends i u (stay u)
  | completes (a : Addr) (hload : i = .load → u.bidx = 0) (hdelay : i = .settle ∨ i = .pace → u.dlyActive = false) :
    Ends i u (completeAt u a)
  | faults (c : FatalCode) (info : Word32) : Ends i u (raise u c info)

/-- A step of op `i` from `s` to `t`: transactions, none of which is a fault, then a write, then an end. -/
def EndsAs (i : Instr) (s t : State) : Prop :=
  ∃ es u, fatals es = [] ∧ Writes (s.emitAll es) i u ∧ Ends i u t

theorem EndsAs.of_writes {i : Instr} {s u t : State} (hw : Writes s i u) (he : Ends i u t) : EndsAs i s t :=
  ⟨[], u, rfl, hw, he⟩

/-- Transactions that are no fault may come before any step. -/
theorem EndsAs.emitAll {i : Instr} {s t : State} {es : List Event} (hes : fatals es = [])
    (h : EndsAs i (s.emitAll es) t) : EndsAs i s t := by
  obtain ⟨es', u, hes', hw, he⟩ := h
  refine ⟨es' ++ es, u, ?_, ?_, he⟩
  · unfold fatals at *
    rw [List.filterMap_append, hes', hes, List.append_nil]
  · rwa [State.emitAll, List.append_assoc]

theorem EndsAs.stay (i : Instr) (s : State) : EndsAs i s (stay s) := .of_writes (.nothing i) .stays

theorem EndsAs.raise (i : Instr) (s : State) (c : FatalCode) (info : Word32) : EndsAs i s (raise s c info) :=
  .of_writes (.nothing i) (.faults c info)

/-- A precondition's fault is an end of any op. -/
theorem EndsAs.need {i : Instr} {ok : Bool} {c : FatalCode} {info : Word32} {s next : State}
    (h : ok = true → EndsAs i s next) : EndsAs i s (need ok c info s next) :=
  need_elim (fun _ => .raise i s c info) h

/-- A hold for the answer is an end of any op. -/
theorem EndsAs.answered {i : Instr} {s next : State} (h : EndsAs i s next) : EndsAs i s (answered s next) :=
  answered_elim (fun _ => .stay i s) fun _ => h

/-- An op other than LOAD, SETTLE and PACE completes after any of its writes. -/
theorem Ends.complete {i : Instr} (u : State) (h : i ∉ [Instr.load, .settle, .pace]) : Ends i u (complete u) := by
  simp only [List.mem_cons, List.not_mem_nil, or_false, not_or] at h
  obtain ⟨hload, hsettle, hpace⟩ := h
  exact .completes (u.upc + 1) (fun hi => absurd hi hload) fun hi => absurd hi (by tauto)

/-- An op that writes and completes. -/
theorem EndsAs.complete {i : Instr} {s u : State} (hw : Writes s i u) (h : i ∉ [Instr.load, .settle, .pace]) :
    EndsAs i s (complete u) :=
  .of_writes hw (.complete u h)

theorem setSpeed_endsAs {i : Instr} (hi : i = .spdS ∨ i = .spdD) (s : State) (hz : Nat) (mode : BusMode) :
    EndsAs i s (setSpeed s hz mode) := by
  rcases setSpeed_cases s hz mode with ⟨-, h⟩ | ⟨-, h⟩ <;> rw [h]
  · exact .stay i s
  · exact ⟨[.busSetSpeed hz s.draw.actualHz], _, rfl, .busMode hi mode,
      .complete _ (by rcases hi with rfl | rfl <;> decide)⟩

theorem execSelect_endsAs {s t : State} (h : execSelect s = .next t) : EndsAs .select s t := by
  unfold execSelect at h
  obtain rfl := Host.Outcome.next.inj h
  refine .need fun _ => .answered ?_
  cases dirEnumerate s with
  | none => exact ⟨[.dirEnumerate false], _, rfl, .nothing _, .faults .enumError 0⟩
  | some list =>
    rcases selectFrom_cases (s.emit (.dirEnumerate true)) list with ⟨-, h⟩ | ⟨k, -, -, -, h⟩ | ⟨k, -, -, -, h⟩ <;>
      dsimp only <;> rw [h]
    · exact ⟨[.dirEnumerate true], _, rfl, .nothing _, .faults .noFiles 0⟩
    · exact ⟨[.streamOpen k false, .rngNext s.draw.rng, .dirEnumerate true], _, rfl, .nothing _, .faults .openError _⟩
    · exact ⟨[.streamOpen k true, .rngNext s.draw.rng, .dirEnumerate true], _, rfl, .opened k _,
        .complete _ (by decide)⟩

theorem execHdrRd_endsAs {s t : State} (h : execHdrRd s = .next t) : EndsAs .hdrRd s t := by
  unfold execHdrRd at h
  obtain rfl := Host.Outcome.next.inj h
  refine .need fun _ => .need fun _ => .answered ?_
  cases streamRead s 8 with
  | none => exact ⟨[.streamRead 8 none], _, rfl, .cursorLost, .faults .readError 8⟩
  | some b =>
    dsimp only
    split
    · exact ⟨[.streamRead 8 (some b.length)], _, rfl, .cursorLost, .faults .shortRead _⟩
    · exact ⟨[.streamRead 8 (some b.length)], _, rfl, .headerBytes _, .complete _ (by decide)⟩

theorem execHdrDec_endsAs {s t : State} (h : execHdrDec s = .next t) : EndsAs .hdrDec s t := by
  unfold execHdrDec at h
  obtain rfl := Host.Outcome.next.inj h
  refine .need fun _ => ?_
  cases hd : decodeHeader s.hdrBuf s.par.ratePolicy with
  | err e => exact .raise _ s _ _
  | ok h => exact .complete (.header hd) (by decide)

theorem execHdrAcc_endsAs {s t : State} (h : execHdrAcc s = .next t) : EndsAs .hdrAcc s t := by
  unfold execHdrAcc at h
  obtain rfl := Host.Outcome.next.inj h
  exact .need fun _ => .need fun _ => .need fun _ => .complete (.nothing _) (by decide)

theorem execRateQ_endsAs {s t : State} (h : execRateQ s = .next t) : EndsAs .rateQ s t := by
  unfold execRateQ at h
  obtain rfl := Host.Outcome.next.inj h
  exact .need fun _ => .complete (.rate _ _) (by decide)

theorem execHint_endsAs {s t : State} (h : execHint s = .next t) : EndsAs .hint s t := by
  unfold execHint at h
  obtain rfl := Host.Outcome.next.inj h
  exact .need fun _ => .need fun _ => .complete (.hint _) (by decide)

theorem hdrValid_of_loadReady {s : State} (h : loadReady s = true) : s.hdrValid = true := by
  simp only [loadReady, Bool.and_eq_true] at h
  exact h.1.2

/-- A whole batch stays before the last one and completes after it (41_loader.md R254). -/
theorem loadBatch_endsAs {s : State} {r : Routine} {bytes : List Byte} (hv : s.hdrValid = true)
    (hr : routineOf s.hdrSize = some r) (hl : bytes.length = r.batchBytes) (hb : s.bidx.toNat < r.batches) :
    EndsAs .load s (loadBatch s r bytes) := by
  by_cases hmore : s.bidx.toNat + 1 < r.batches
  · rw [loadBatch_more bytes hmore]
    exact .of_writes (.batchMore hv hr hl hmore) .stays
  · rw [loadBatch_last bytes hmore]
    exact .of_writes (.batchLast hv hr hl (by omega)) (.completes _ (fun _ => rfl) (by simp))

theorem execLoad_endsAs {s t : State} (h : execLoad s = .next t) : EndsAs .load s t := by
  rcases execLoad_cases s with ⟨-, c, info, hx⟩ | ⟨-, -, hx⟩ | ⟨r, -, -, -, hx⟩ | ⟨r, hready, hr, hb, hx⟩ <;>
    rw [hx] at h <;> cases h
  · exact .raise _ s c info
  · rcases loadStep_cases s r with ⟨-, h⟩ | ⟨-, -, h⟩ | ⟨bytes, -, -, -, h⟩ | ⟨bytes, -, -, hl, h⟩ <;> rw [h]
    · exact .stay _ s
    · exact ⟨[.streamRead r.batchBytes none], _, rfl, .batchLost r, .faults .readError _⟩
    · exact ⟨[.streamRead r.batchBytes (some bytes.length)], _, rfl, .batchLost r, .faults .shortRead _⟩
    · exact .emitAll (es := [.streamRead r.batchBytes (some r.batchBytes)]) rfl
        (loadBatch_endsAs (hdrValid_of_loadReady hready) hr hl hb)

theorem execLoopchk_endsAs {s t : State} (h : execLoopchk s = .next t) : EndsAs .loopchk s t := by
  unfold execLoopchk at h
  obtain rfl := Host.Outcome.next.inj h
  refine .need fun _ => .need fun _ => .need fun _ => ?_
  split
  · rcases loopSeek_cases s with ⟨-, h⟩ | ⟨-, -, h⟩ | ⟨-, -, h⟩ <;> rw [h]
    · exact .stay _ s
    · exact ⟨[.streamSeek 8 true], _, rfl, .rewound, .complete _ (by decide)⟩
    · exact ⟨[.streamSeek 8 false], _, rfl, .nothing _, .faults .seekError 8⟩
  · exact .complete (.nothing _) (by decide)

theorem execIterBegin_endsAs {s t : State} (h : execIterBegin s = .next t) : EndsAs .iterBegin s t := by
  unfold execIterBegin at h
  obtain rfl := Host.Outcome.next.inj h
  exact .complete (.iteration s.now) (by decide)

theorem teWait_endsAs {i : Instr} (hi : i = .teRise ∨ i = .teFall) (s : State) (level : Bool) :
    EndsAs i s (teWait s level) := by
  rcases teWait_cases s level with ⟨-, h⟩ | ⟨-, h⟩ <;> rw [h]
  · exact .complete (.sampled hi _) (by rcases hi with rfl | rfl <;> decide)
  · exact .of_writes (.sampled hi _) .stays

/-- A step of a delay leaves the delay registers in some way, and it completes only with the delay over
(43_playloop.md R345). -/
theorem delayStep_ends {i : Instr} (hi : i ≠ .load) (s : State) (t len : Micros) :
    ∃ t₀ len' active,
      Ends i { s with dlyT0 := t₀, dlyLen := len', dlyActive := active } (delayStep s t len) := by
  cases ha : s.dlyActive with
  | true =>
    rw [delayStep_running t len ha]
    split
    · exact ⟨s.dlyT0, s.dlyLen, false, .completes _ (fun h => absurd h hi) fun _ => rfl⟩
    · exact ⟨s.dlyT0, s.dlyLen, s.dlyActive, .stays⟩
  | false =>
    rw [delayStep_first t len ha]
    split
    · exact ⟨t, len, false, .completes _ (fun h => absurd h hi) fun _ => rfl⟩
    · exact ⟨t, len, true, .stays⟩

theorem execSettle_endsAs {s t : State} (h : execSettle s = .next t) : EndsAs .settle s t := by
  unfold execSettle at h
  obtain rfl := Host.Outcome.next.inj h
  obtain ⟨t₀, len, active, he⟩ := delayStep_ends (i := .settle) (by decide) s s.now (settleLen s)
  exact .of_writes (.settleDelay t₀ len active) he

theorem execPresent_endsAs {s t : State} (h : execPresent s = .next t) : EndsAs .present s t := by
  unfold execPresent at h
  obtain rfl := Host.Outcome.next.inj h
  refine .need fun _ => .need fun _ => .answered ?_
  dsimp only
  split
  · exact ⟨[.dispPresent (s.fb.readRange 0 fbBytes) true], _, rfl, .nothing _, .complete _ (by decide)⟩
  · exact ⟨[.dispPresent (s.fb.readRange 0 fbBytes) false], _, rfl, .nothing _, .faults .presentError 0⟩

theorem execBlOn2_endsAs {s t : State} (h : execBlOn2 s = .next t) : EndsAs .blOn2 s t := by
  unfold execBlOn2 at h
  obtain rfl := Host.Outcome.next.inj h
  split
  next hi => exact .answered ⟨[.dispBacklight true], _, rfl, .backlightOn hi, .complete _ (by decide)⟩
  · exact .complete (.nothing _) (by decide)

theorem execPace_endsAs {s t : State} (h : execPace s = .next t) : EndsAs .pace s t := by
  unfold execPace at h
  obtain rfl := Host.Outcome.next.inj h
  split
  · obtain ⟨t₀, len, active, he⟩ := delayStep_ends (i := .pace) (by decide) s s.now 0
    exact .of_writes (.paceDelay t₀ len s.paceSleepUs active) he
  · refine .need fun _ => .need fun _ => ?_
    obtain ⟨t₀, len, active, he⟩ :=
      delayStep_ends (i := .pace) (by decide) { s with paceSleepUs := paceSleep s s.now } s.now (paceSleep s s.now)
    exact .of_writes (.paceDelay t₀ len _ active) he

theorem execJmp_endsAs {s t : State} {k : Nat} (h : execJmp k s = .next t) : EndsAs (.jmp k) s t := by
  unfold execJmp at h
  obtain rfl := Host.Outcome.next.inj h
  exact .of_writes (.nothing _) (.completes _ (by simp) (by simp))

/-- Everything a step of an op can do. -/
theorem exec_endsAs {i : Instr} {s t : State} (h : exec i s = .next t) : EndsAs i s t := by
  cases i with
  | spdS =>
    obtain rfl := Host.Outcome.next.inj h
    exact setSpeed_endsAs (.inl rfl) s _ _
  | spdD =>
    obtain rfl := Host.Outcome.next.inj h
    exact setSpeed_endsAs (.inr rfl) s _ _
  | select => exact execSelect_endsAs h
  | hdrRd => exact execHdrRd_endsAs h
  | hdrDec => exact execHdrDec_endsAs h
  | hdrAcc => exact execHdrAcc_endsAs h
  | rateQ => exact execRateQ_endsAs h
  | hint => exact execHint_endsAs h
  | load => exact execLoad_endsAs h
  | loopchk => exact execLoopchk_endsAs h
  | iterBegin => exact execIterBegin_endsAs h
  | teRise =>
    obtain rfl := Host.Outcome.next.inj h
    exact teWait_endsAs (.inl rfl) s true
  | teFall =>
    obtain rfl := Host.Outcome.next.inj h
    exact teWait_endsAs (.inr rfl) s false
  | settle => exact execSettle_endsAs h
  | present => exact execPresent_endsAs h
  | blOn2 => exact execBlOn2_endsAs h
  | pace => exact execPace_endsAs h
  | jmp k => exact execJmp_endsAs h

/-! ### The invariant of every step -/

/-- A reset of the block reaches the invariant from any state. -/
theorem inv_blockReset (s : State) : (blockReset s).Inv where
  fbWf := rfl
  sbWf := rfl
  header h := by simp [State.reset] at h
  loading h := by simp [State.reset] at h
  frame h := by simp [State.reset] at h
  rate h := by simp [State.reset] at h
  delay h := by simp [State.reset] at h
  tePrev := by simp [State.reset]
  latch := by simp [State.reset]
  backlight h := by simp [State.reset] at h

theorem FatalCode.code_ne_zero (c : FatalCode) : c.code ≠ 0 := by cases c <;> decide

/-- Fault entry keeps the invariant, whether the block halts or resets. -/
theorem State.Inv.raise {s : State} (h : s.Inv) (c : FatalCode) (info : Word32) : (raise s c info).Inv := by
  cases ha : s.par.fatalAction with
  | halt =>
    rw [raise_halt ha]
    exact { h with latch := ⟨fun _ => c.code_ne_zero, fun _ => rfl⟩ }
  | reset =>
    rw [raise_reset ha]
    exact { inv_blockReset _ with }

/-- Only a LOAD finds a LOAD in progress. -/
theorem State.Inv.bidx_eq_zero {s : State} {i : Instr} (h : s.Inv) (hi : runs s i) (hl : i ≠ .load) : s.bidx = 0 := by
  by_contra hb
  obtain ⟨-, hrun⟩ := h.loading hb
  exact hl (Decoded.op.inj (hi.symm.trans hrun))

/-- Only SETTLE and PACE find a delay running. -/
theorem State.Inv.dlyActive_eq_false {s : State} {i : Instr} (h : s.Inv) (hi : runs s i)
    (hd : ¬(i = .settle ∨ i = .pace)) : s.dlyActive = false := by
  by_contra ha
  refine hd ((h.delay (Bool.eq_true_of_not_eq_false ha)).imp ?_ ?_) <;>
    exact fun hrun => Decoded.op.inj (hi.symm.trans hrun)

/-- With no LOAD and no delay in progress `upc` may move. -/
theorem State.Inv.completeAt {s : State} (h : s.Inv) (a : Addr) (hb : s.bidx = 0) (hd : s.dlyActive = false) :
    (completeAt s a).Inv :=
  { h with
    loading := fun hne => absurd hb hne
    delay := fun ha => absurd (ha.symm.trans hd) (by decide) }

/-- Every end of an op keeps the invariant. -/
theorem Ends.inv {i : Instr} {u t : State} (he : Ends i u t) (h : u.Inv) (hi : runs u i) : t.Inv := by
  cases he with
  | stays => exact { h with }
  | completes a hload hdelay =>
    refine h.completeAt a ?_ ?_
    · by_cases hl : i = .load
      · exact hload hl
      · exact h.bidx_eq_zero hi hl
    · by_cases hd : i = .settle ∨ i = .pace
      · exact hdelay hd
      · exact h.dlyActive_eq_false hi hd
  | faults c info => exact h.raise c info

/-- A whole batch gives every FB byte of its rows a value and leaves the others (41_loader.md R254, R261). -/
theorem isSome_read_blit {s : State} {r : Routine} {bytes : List Byte} {b a : Nat} (h : s.Inv)
    (hl : bytes.length = r.batchBytes) :
    (Memory.read (blit r b s.fb (s.sb.writeBytes 0 bytes)) a).isSome = true ↔
      b * r.fbBatchBytes ≤ a ∧ a < b * r.fbBatchBytes + r.fbBatchBytes ∨ (Memory.read s.fb a).isSome = true := by
  rw [read_blit _ h.fbWf]
  split_ifs with ha
  · have hlt := blitSource_lt_batchBytes ha.1 ha.2
    rw [Memory.read_writeBytes bytes h.sbWf, if_pos (by omega), Nat.sub_zero, List.getElem?_eq_getElem (by omega)]
    simp [ha]
  · simp only [ha, false_or]

/-- After batch `b` every FB byte below the next batch has a value, if every byte below batch `b` had one. -/
theorem isSome_read_blit_below {s : State} {r : Routine} {bytes : List Byte} {b : Nat} (h : s.Inv)
    (hl : bytes.length = r.batchBytes)
    (hbelow : ∀ a, a < b * r.fbBatchBytes → (Memory.read s.fb a).isSome = true) (a : Nat)
    (ha : a < (b + 1) * r.fbBatchBytes) :
    (Memory.read (blit r b s.fb (s.sb.writeBytes 0 bytes)) a).isSome = true := by
  rw [isSome_read_blit h hl]
  rw [Nat.succ_mul] at ha
  rcases Nat.lt_or_ge a (b * r.fbBatchBytes) with hlt | hge
  · exact .inr (hbelow a hlt)
  · exact .inl ⟨hge, ha⟩

/-- The bytes below the next batch have a value, in a state with a valid header of a known routine. -/
theorem State.Inv.below_bidx {s : State} {r : Routine} (h : s.Inv) (hv : s.hdrValid = true)
    (hr : routineOf s.hdrSize = some r) (a : Nat) (ha : a < s.bidx.toNat * r.fbBatchBytes) :
    (Memory.read s.fb a).isSome = true := by
  obtain ⟨-, -, r', hr', -, hbelow⟩ := h.header hv
  obtain rfl := Option.some.inj (hr.symm.trans hr')
  exact hbelow a ha

theorem Routine.batches_pos (r : Routine) : 0 < r.batches := by cases r <;> decide

theorem Routine.batches_le (r : Routine) : r.batches ≤ 30 := by cases r <;> decide

/-- A batch that lands in SB leaves both memories canonical. -/
theorem State.Inv.wf_batch {s : State} {r : Routine} {bytes : List Byte} (h : s.Inv)
    (hl : bytes.length = r.batchBytes) (hb : s.bidx.toNat < r.batches) :
    Memory.wf fbBytes (blit r s.bidx.toNat s.fb (s.sb.writeBytes 0 bytes)) = true ∧
      Memory.wf sbBytes (s.sb.writeBytes 0 bytes) = true :=
  ⟨wf_blit _ hb h.fbWf, Memory.wf_writeBytes bytes h.sbWf (by have := r.batchBytes_le; omega)⟩

theorem State.Inv.batchMore {s : State} {r : Routine} {bytes : List Byte} (h : s.Inv) (hrun : runs s .load)
    (hv : s.hdrValid = true) (hr : routineOf s.hdrSize = some r) (hl : bytes.length = r.batchBytes)
    (hb : s.bidx.toNat + 1 < r.batches) :
    State.Inv
      { s with
        sb := s.sb.writeBytes 0 bytes, cursor := s.cursor + BitVec.ofNat 64 r.batchBytes,
        fb := blit r s.bidx.toNat s.fb (s.sb.writeBytes 0 bytes), bidx := s.bidx + 1 } := by
  obtain ⟨hver, henc, -⟩ := h.header hv
  obtain ⟨hfb, hsb⟩ := h.wf_batch hl (Nat.lt_of_succ_lt hb)
  have hbidx : (s.bidx + 1).toNat = s.bidx.toNat + 1 := by
    have := r.batches_le
    rw [BitVec.toNat_add]
    exact Nat.mod_eq_of_lt (by simp; omega)
  refine
    { h with
      fbWf := hfb, sbWf := hsb, header := fun _ => ⟨hver, henc, r, hr, ?_⟩, loading := fun _ => ⟨hv, hrun⟩,
      frame := ?_ }
  · dsimp only
    rw [hbidx]
    exact ⟨hb, isSome_read_blit_below h hl (h.below_bidx hv hr)⟩
  · exact fun hval a ha => (isSome_read_blit h hl).2 (.inr (h.frame hval a ha))

theorem State.Inv.batchLast {s : State} {r : Routine} {bytes : List Byte} (h : s.Inv)
    (hv : s.hdrValid = true) (hr : routineOf s.hdrSize = some r) (hl : bytes.length = r.batchBytes)
    (hb : s.bidx.toNat + 1 = r.batches) :
    State.Inv
      { s with
        sb := s.sb.writeBytes 0 bytes, cursor := s.cursor + BitVec.ofNat 64 r.batchBytes,
        fb := blit r s.bidx.toNat s.fb (s.sb.writeBytes 0 bytes), bidx := 0, fss := s.fss + 1, fbValid := true } := by
  obtain ⟨hver, henc, -⟩ := h.header hv
  obtain ⟨hfb, hsb⟩ := h.wf_batch hl (by omega)
  refine
    { h with
      fbWf := hfb, sbWf := hsb, header := fun _ => ⟨hver, henc, r, hr, r.batches_pos, by simp⟩,
      loading := fun hne => absurd rfl hne, frame := fun _ a ha => ?_ }
  rw [← r.batches_mul_fbBatchBytes, ← hb] at ha
  exact isSome_read_blit_below h hl (h.below_bidx hv hr) a ha

/-- A failed batch loses SB bytes and the cursor, of which the invariant says nothing but SB's form. -/
theorem State.Inv.loadLost {s : State} (h : s.Inv) (r : Routine) : (loadLost s r).Inv :=
  { h with sbWf := Memory.wf_forget h.sbWf (by have := r.batchBytes_le; omega) }

/-- The size byte of a header that decodes selects a routine (40_codec.md R203). -/
theorem exists_routineOf {size : Byte} (h : size = 60 ∨ size = 120 ∨ size = 240) :
    ∃ r, routineOf size = some r := by
  rcases h with rfl | rfl | rfl
  · exact ⟨.blit60, rfl⟩
  · exact ⟨.blit120, rfl⟩
  · exact ⟨.blit240, rfl⟩

theorem State.Inv.header_decoded {s : State} {hd : Header} (h : s.Inv) (hb : s.bidx = 0)
    (hdec : decodeHeader s.hdrBuf s.par.ratePolicy = .ok hd) :
    State.Inv
      { s with
        hdrVersion := hd.version, hdrEncoding := hd.encoding, hdrSize := hd.size, hdrRate := hd.frameRate,
        hdrCount := hd.frameCount, hdrValid := true } := by
  obtain ⟨-, -, hver, henc, hsize, -, rfl⟩ := decodeHeader_ok hdec
  obtain ⟨r, hr⟩ := exists_routineOf hsize
  refine { h with header := fun _ => ⟨hver, henc, r, hr, ?_⟩, loading := fun hne => absurd hb hne }
  dsimp only
  rw [hb]
  exact ⟨r.batches_pos, by simp⟩

theorem State.Inv.rate_quantized {s : State} (h : s.Inv) (raw : Nat) (size : Byte) :
    State.Inv
      { s with
        rateQ := BitVec.ofNat 8 (quantize raw size).1, budgetUs := BitVec.ofNat 32 (budget (quantize raw size).1),
        rateDiag := (quantize raw size).2, rateValid := true } := by
  have hmem : (quantize raw size).1 ∈ quantizedRates := quantize_mem raw size
  have hsmall : ∀ q ∈ quantizedRates, q < 2 ^ 8 := by decide
  have hq : (BitVec.ofNat 8 (quantize raw size).1).toNat = (quantize raw size).1 := by
    rw [BitVec.toNat_ofNat, Nat.mod_eq_of_lt (hsmall _ hmem)]
  refine { h with rate := fun _ => ?_ }
  dsimp only
  rw [hq]
  exact ⟨hmem, rfl⟩

theorem teSeen_ne (sample : Bool) : teSeen sample ≠ 0b01 := by cases sample <;> decide

theorem two_le_nextIter : ∀ i : BitVec 2, 2 ≤ i.toNat → 2 ≤ (nextIter i).toNat := by decide

/-- What an op writes keeps the invariant, at the address where the op runs. -/
theorem Writes.inv {i : Instr} {s u : State} (hw : Writes s i u) (h : s.Inv) (hi : runs s i) : u.Inv := by
  cases hw with
  | nothing => exact h
  | busMode => exact { h with }
  | opened => exact { h with }
  | headerBytes => exact { h with }
  | cursorLost => exact { h with }
  | header hd => exact h.header_decoded (h.bidx_eq_zero hi (by decide)) hd
  | rate raw size => exact h.rate_quantized raw size
  | hint => exact { h with }
  | batchLost r => exact h.loadLost r
  | batchMore hv hr hl hb => exact h.batchMore hi hv hr hl hb
  | batchLast hv hr hl hb => exact h.batchLast hv hr hl hb
  | rewound => exact { h with }
  | iteration =>
    exact { h with tePrev := show 0b00#2 ≠ 0b01 by decide, backlight := fun hon => two_le_nextIter _ (h.backlight hon) }
  | sampled _ sample => exact { h with tePrev := teSeen_ne sample }
  | settleDelay => exact { h with delay := fun _ => .inl hi }
  | paceDelay => exact { h with delay := fun _ => .inr hi }
  | backlightOn h2 => exact { h with backlight := fun _ => by rw [h2]; decide }

/-- No op writes the ROM or moves `upc` before its end, so the end stands at the op's own address. -/
theorem Writes.runs {i j : Instr} {s u : State} (hw : Writes s i u) (h : runs s j) : runs u j := by
  cases hw <;> exact h

/-- A step of the op at `upc` keeps the invariant. -/
theorem EndsAs.inv {i : Instr} {s t : State} (he : EndsAs i s t) (h : s.Inv) (hi : Machine.runs s i) : t.Inv := by
  obtain ⟨es, u, -, hw, he⟩ := he
  have h' : (s.emitAll es).Inv := { h with }
  exact he.inv (hw.inv h' hi) (hw.runs hi)

/-- Settles O45, by the cases of a step: a reset, a fault at the fetch, or an op, which keeps the invariant in its
write and in its end. -/
theorem everyStepKeepsTheInvariant : Obligations.EveryStepKeepsTheInvariant := by
  intro s t h hstep
  rcases step_cases s with ⟨-, hx⟩ | ⟨-, -, hx⟩ | ⟨w, -, -, -, hx⟩ | ⟨i, -, -, hi, hx⟩ <;> rw [hx] at hstep
  · obtain rfl := Host.Outcome.next.inj hstep
    exact { inv_blockReset s with }
  · cases hstep
  · obtain rfl := Host.Outcome.next.inj hstep
    exact h.raise .illegalOp (wordInfo w)
  · exact (exec_endsAs hstep).inv h hi

/-! ### The writers of the registers -/

theorem fatals_raise_ne (s : State) (c : FatalCode) (info : Word32) :
    fatals (raise s c info).events ≠ fatals s.events := by
  rw [fatals_raise]
  exact List.cons_ne_self c _

/-- Unless a fault resets the block, the end of a step touches `upc`, the latch, the record and the environment
alone. -/
theorem Ends.registers {i : Instr} {u t : State} (he : Ends i u t)
    (hq : u.par.fatalAction = .halt ∨ fatals t.events = fatals u.events) :
    t =
      { u with
        upc := t.upc, halted := t.halted, faultCode := t.faultCode, faultUpc := t.faultUpc, faultInfo := t.faultInfo,
        time := t.time, tick := t.tick, script := t.script, events := t.events } := by
  cases he with
  | stays => rfl
  | completes => rfl
  | faults c info =>
    have ha : u.par.fatalAction = .halt := hq.resolve_right (fatals_raise_ne u c info)
    rw [raise_halt ha]
    rfl

/-- An end that records no fault leaves the latch. -/
theorem Ends.sameLatch {i : Instr} {u t : State} (he : Ends i u t) (hq : fatals t.events = fatals u.events) :
    SameLatch u t := by
  cases he with
  | stays => exact ⟨rfl, rfl, rfl, rfl⟩
  | completes => exact ⟨rfl, rfl, rfl, rfl⟩
  | faults c info => exact absurd hq (fatals_raise_ne u c info)

theorem Writes.events_eq {i : Instr} {s u : State} (hw : Writes s i u) : u.events = s.events := by cases hw <;> rfl

theorem Writes.par_eq {i : Instr} {s u : State} (hw : Writes s i u) : u.par = s.par := by cases hw <;> rfl

theorem Writes.sameLatch {i : Instr} {s u : State} (hw : Writes s i u) : SameLatch s u := by
  cases hw <;> exact ⟨rfl, rfl, rfl, rfl⟩

theorem fatals_emitAll {s : State} {es : List Event} (hes : fatals es = []) :
    fatals (s.emitAll es).events = fatals s.events := by
  unfold fatals at hes ⊢
  rw [State.emitAll, List.filterMap_append, hes, List.nil_append]

/-- A step of an op that no fault resets: what the op writes, with `upc`, the latch, the record and the environment
moved on. -/
theorem EndsAs.registers {i : Instr} {s t : State} (he : EndsAs i s t)
    (hq : s.par.fatalAction = .halt ∨ fatals t.events = fatals s.events) :
    ∃ es u, Writes (s.emitAll es) i u ∧
      t =
        { u with
          upc := t.upc, halted := t.halted, faultCode := t.faultCode, faultUpc := t.faultUpc, faultInfo := t.faultInfo,
          time := t.time, tick := t.tick, script := t.script, events := t.events } := by
  obtain ⟨es, u, hes, hw, he⟩ := he
  refine ⟨es, u, hw, he.registers ?_⟩
  rw [hw.par_eq, hw.events_eq, fatals_emitAll hes]
  exact hq

/-- A step of an op that raises no fault leaves `halted` and the latch. -/
theorem EndsAs.sameLatch {i : Instr} {s t : State} (he : EndsAs i s t) (hq : fatals t.events = fatals s.events) :
    SameLatch s t := by
  obtain ⟨es, u, hes, hw, he⟩ := he
  obtain ⟨h₁, h₂, h₃, h₄⟩ := hw.sameLatch
  obtain ⟨k₁, k₂, k₃, k₄⟩ := he.sameLatch (hq.trans (by rw [hw.events_eq, fatals_emitAll hes]))
  exact ⟨k₁.trans h₁, k₂.trans h₂, k₃.trans h₃, k₄.trans h₄⟩

/-- Settles O43: unless a fault resets the block, the registers change by what the op writes, and each write is of the
registers that 10_state.md gives to that op. -/
theorem registersHaveTheirWriters : Obligations.RegistersHaveTheirWriters := by
  intro i s t hx hq
  obtain ⟨es, u, hw, ht⟩ := (exec_endsAs hx).registers hq
  rw [ht]
  cases hw
  case busMode mode hi =>
    rcases hi with rfl | rfl <;>
      simp [State.emitAll, SameHeaderRegs, SameRate, SameIteration, SameHeaderBytes, SameDelay]
  all_goals
    simp [State.emitAll, loadLost, SameHeaderRegs, SameRate, SameIteration, SameHeaderBytes, SameDelay]

/-- Settles O55: the stream position and the edge detector as the other registers, and the latch, which no op writes
before its end and no end but a fault. -/
theorem streamAndFaultRegistersHaveTheirWriters : Obligations.StreamAndFaultRegistersHaveTheirWriters := by
  intro i s t hx
  refine ⟨fun hq => ?_, (exec_endsAs hx).sameLatch⟩
  obtain ⟨es, u, hw, ht⟩ := (exec_endsAs hx).registers hq
  rw [ht]
  cases hw
  case sampled sample hi => rcases hi with rfl | rfl <;> simp [State.emitAll]
  all_goals simp [State.emitAll, loadLost]

/-! ### The STATUS word -/

/-- A bit of a packed word at or above the width of its last field is a bit of the fields before. -/
theorem getLsbD_append_of_le {v w k : Nat} {hi : BitVec v} {lo : BitVec w} (h : w ≤ k) :
    (hi ++ lo).getLsbD k = hi.getLsbD (k - w) := by
  rw [BitVec.getLsbD_append, if_neg (Nat.not_lt.2 h)]

/-- The lowest bit of a packed word is its last field, where that is a flag. -/
theorem getLsbD_append_bit {v : Nat} (hi : BitVec v) (b : Bool) : (hi ++ bit b).getLsbD 0 = b := by
  rw [BitVec.getLsbD_append, if_pos Nat.one_pos, bit, BitVec.getLsbD_ofBool]
  simp

/-- Settles O40: each field stands above the widths of the fields packed after it. The widths are kept as the sums
they are, for the lemmas speak of them. -/
theorem statusPacksItsFields : Obligations.StatusPacksItsFields := by
  refine ⟨by decide, fun s => ?_⟩
  unfold status
  simp only [BitVec.extractLsb'_append_eq_of_le, BitVec.extractLsb'_append_eq_right, BitVec.extractLsb'_eq_self,
    getLsbD_append_of_le, getLsbD_append_bit, and_self, Nat.reduceLeDiff, Nat.reduceSub, -Nat.reduceAdd]

end Sys2Proof.Machine

namespace Sys2Proof.Machine

open Sys2Proof

/-! ### What every step keeps -/

/-- One step has passed from `s` to `t`: the ROM and the parameters stand (20_memory.md R99, 10_state.md R54), time has
not moved back (43_playloop.md R351), the step is counted, and the record has only grown. -/
structure Passes (s t : State) : Prop where
  rom : t.rom = s.rom
  par : t.par = s.par
  time : s.time ≤ t.time
  tick : t.tick = s.tick + 1
  events : s.events <:+ t.events

/-- The end of a step that leaves the record alone. -/
theorem passes_pass (s : State) : Passes s (State.pass s) :=
  ⟨rfl, rfl, time_le_timeNow s, rfl, List.suffix_rfl⟩

/-- A fault passes the step whether the block halts or resets, and is itself recorded. -/
theorem passes_raise (s : State) (c : FatalCode) (info : Word32) : Passes s (raise s c info) where
  rom := raise_rom s c info
  par := raise_par s c info
  time := raise_time s c info ▸ time_le_timeNow s
  tick := raise_tick s c info
  events := raise_events s c info ▸ List.suffix_cons _ _

theorem Ends.passes {i : Instr} {u t : State} (he : Ends i u t) : Passes u t := by
  cases he with
  | stays => exact passes_pass u
  | completes => exact { passes_pass u with }
  | faults c info => exact passes_raise u c info

theorem Writes.rom_eq {i : Instr} {s u : State} (hw : Writes s i u) : u.rom = s.rom := by cases hw <;> rfl

theorem Writes.time_eq {i : Instr} {s u : State} (hw : Writes s i u) : u.time = s.time := by cases hw <;> rfl

theorem Writes.tick_eq {i : Instr} {s u : State} (hw : Writes s i u) : u.tick = s.tick := by cases hw <;> rfl

/-- The transactions of an op add to the record, its writes are of registers alone, and its end passes the step. -/
theorem EndsAs.passes {i : Instr} {s t : State} (he : EndsAs i s t) : Passes s t := by
  obtain ⟨es, u, -, hw, he⟩ := he
  obtain ⟨hrom, hpar, htime, htick, hevents⟩ := he.passes
  rw [hw.events_eq] at hevents
  exact ⟨hrom.trans hw.rom_eq, hpar.trans hw.par_eq, hw.time_eq ▸ htime, hw.tick_eq ▸ htick,
    (List.suffix_append es s.events).trans hevents⟩

/-- Every step that has a next state passes: the reset input, a fault at the fetch, or an op. -/
theorem step_passes {s t : State} (h : step s = .next t) : Passes s t := by
  rcases step_cases s with ⟨-, hx⟩ | ⟨-, -, hx⟩ | ⟨w, -, -, -, hx⟩ | ⟨i, -, -, -, hx⟩ <;> rw [hx] at h
  · obtain rfl := Host.Outcome.next.inj h
    exact { passes_pass (blockReset s) with }
  · cases h
  · obtain rfl := Host.Outcome.next.inj h
    exact passes_raise s .illegalOp (wordInfo w)
  · exact (exec_endsAs h).passes

/-- Settles O42, by the cases of a step: no write of an op touches the ROM, the parameters or the environment, and each
end of a step, a reset's and a fault's too, moves the environment on. -/
theorem everyStepKeepsRomAndParameters : Obligations.EveryStepKeepsRomAndParameters := by
  intro s t h
  obtain ⟨hrom, hpar, htime, htick, es, hevents⟩ := step_passes h
  exact ⟨hrom, hpar, htime, htick, es, hevents.symm⟩

end Sys2Proof.Machine

namespace Sys2Proof

/-! ### The decoder and the encoder -/

/-- Everything `decodeOp` can answer (30_encoding.md R131, R133, R135): a jump by the top three bits, the op of the
map's row that holds the word, or the rejection of a word in no row. -/
theorem decodeOp_cases (w : Byte) :
    (w.extractLsb' 5 3 = 0b111#3 ∧ decodeOp w = .op (.jmp (jumpField w).toNat)) ∨
    (w.extractLsb' 5 3 ≠ 0b111#3 ∧ ∃ r ∈ opcodeMap, r.1 = w ∧ decodeOp w = .op r.2) ∨
    (w.extractLsb' 5 3 ≠ 0b111#3 ∧ (∀ r ∈ opcodeMap, r.1 ≠ w) ∧ decodeOp w = .illegal w) := by
  by_cases hj : w.extractLsb' 5 3 = 0b111#3
  · exact .inl ⟨hj, by simp only [decodeOp, if_pos hj]⟩
  · cases hf : opcodeMap.find? (fun r => r.1 == w) with
    | some r =>
      exact .inr (.inl ⟨hj, r, List.mem_of_find?_eq_some hf, by simpa using List.find?_some hf,
        by simp only [decodeOp, if_neg hj, hf]⟩)
    | none =>
      exact .inr (.inr ⟨hj, by simpa using hf, by simp only [decodeOp, if_neg hj, hf]⟩)

/-- A jump word decodes to the target in its low five bits (30_encoding.md R132). -/
theorem decodeOp_jump (x : BitVec 5) : decodeOp (0b111#3 ++ x) = .op (.jmp x.toNat) := by
  have htop : (0b111#3 ++ x).extractLsb' 5 3 = 0b111#3 := BitVec.extractLsb'_append_eq_left
  have hlow : (0b111#3 ++ x).extractLsb' 0 5 = x := BitVec.extractLsb'_append_eq_right
  rw [decodeOp, if_pos htop, jumpField, hlow]

/-- A word with the three bits of a jump is the encoding of the jump to its low five bits. -/
theorem encode_jumpField {w : Byte} (h : w.extractLsb' 5 3 = 0b111#3) : encode (.jmp (jumpField w).toNat) = w := by
  have hjoin : w.extractLsb' 5 3 ++ w.extractLsb' 0 5 = w :=
    (BitVec.extractLsb'_append_extractLsb'_eq_extractLsb' (start₁ := 0) rfl).trans BitVec.extractLsb'_eq_self
  rw [encode, BitVec.ofNat_toNat, BitVec.setWidth_eq, jumpField, ← h, hjoin]

theorem jumpField_wf (w : Byte) : (Instr.jmp (jumpField w).toNat).wf = true := by
  have := (jumpField w).isLt
  simp only [Instr.wf, decide_eq_true_eq]
  omega

/-- Every row of the opcode map pairs a well-formed op with its word. -/
theorem opcodeMap_encode : ∀ r ∈ opcodeMap, r.2.wf = true ∧ encode r.2 = r.1 := by decide

theorem decodeOp_encode {i : Instr} (h : i.wf = true) : decodeOp (encode i) = .op i := by
  cases i with
  | jmp t =>
    have ht : t ≤ 31 := of_decide_eq_true h
    have htarget : (BitVec.ofNat 5 t).toNat = t := Nat.mod_eq_of_lt (by omega)
    rw [encode, decodeOp_jump, htarget]
  | _ => rfl

theorem encode_of_decodeOp {w : Byte} {i : Instr} (h : decodeOp w = .op i) : i.wf = true ∧ encode i = w := by
  rcases decodeOp_cases w with ⟨hj, hd⟩ | ⟨-, r, hr, rfl, hd⟩ | ⟨-, -, hd⟩ <;> rw [hd] at h
  · obtain rfl := Decoded.op.inj h
    exact ⟨jumpField_wf w, encode_jumpField hj⟩
  · obtain rfl := Decoded.op.inj h
    exact opcodeMap_encode r hr
  · cases h

/-- Settles O1: the encoder inverts the decoder on the jump words by their two bit fields, and elsewhere row by row of
the opcode map. -/
theorem decodeEncodeRoundTrip : Obligations.DecodeEncodeRoundTrip :=
  ⟨fun _ => decodeOp_encode, fun _ _ => encode_of_decodeOp, fun i rest h => by
    simp only [decodeBytes, decodeOp_encode h]⟩

/-- The rejected words: not a jump, and in no row of the opcode map. -/
theorem decodeOp_eq_illegal_iff (w : Byte) :
    decodeOp w = .illegal w ↔ w.extractLsb' 5 3 ≠ 0b111#3 ∧ ∀ r ∈ opcodeMap, r.1 ≠ w := by
  rcases decodeOp_cases w with ⟨hj, hd⟩ | ⟨-, r, hr, hw, hd⟩ | ⟨hj, hn, hd⟩ <;> rw [hd]
  · exact iff_of_false Decoded.noConfusion fun h => h.1 hj
  · exact iff_of_false Decoded.noConfusion fun h => h.2 r hr hw
  · exact iff_of_true rfl ⟨hj, hn⟩

/-- The jump words are the words from 0xE0 on. -/
theorem jumpBits_iff (w : Byte) : w.extractLsb' 5 3 = 0b111#3 ↔ 0xE0 ≤ w.toNat := by
  have := w.isLt
  rw [← BitVec.toNat_inj, BitVec.extractLsb'_toNat, Nat.shiftRight_eq_div_pow, BitVec.toNat_ofNat]
  omega

end Sys2Proof

namespace Sys2Proof.Machine

open Sys2Proof

/-- A step that is no reset and finds an illegal word raises ILLEGAL_OP (30_encoding.md R133). -/
theorem step_of_illegal {s : State} {w : Byte} (hr : s.draw.reset = false) (hh : s.halted = false)
    (hw : decodeOp (fetch s) = .illegal w) : step s = .next (raise s .illegalOp (wordInfo w)) := by
  simp only [step, hr, hh, hw, Bool.false_eq_true, if_false, illegalWord]

/-- A step that is no reset runs the op at `upc` (42_boot.md R302). -/
theorem step_of_runs {s : State} {i : Instr} (hr : s.draw.reset = false) (hh : s.halted = false) (hi : runs s i) :
    step s = exec i s := by
  unfold runs at hi
  simp only [step, hr, hh, hi, Bool.false_eq_true, if_false]

/-- Settles O2: the rejected words are those below the jump words that no row of the opcode map holds, which are the
gaps between the rows. -/
theorem illegalWordsFaultAtFetch : Obligations.IllegalWordsFaultAtFetch := by
  refine ⟨fun w => ?_, fun s hr hh hw => step_of_illegal hr hh hw⟩
  have := w.isLt
  rw [decodeOp_eq_illegal_iff, Ne, jumpBits_iff]
  simp only [opcodeMap, List.forall_mem_cons, List.not_mem_nil, false_imp_iff, implies_true, and_true, ne_eq,
    ← BitVec.toNat_inj, BitVec.ofNat_eq_ofNat, BitVec.toNat_ofNat]
  omega

/-- Settles O3: each word is decoded by evaluation. -/
theorem sampleWordsDecode : Obligations.SampleWordsDecode := by
  unfold Obligations.SampleWordsDecode
  decide

/-! ### The fault codes -/

/-- Every cause of a fatal fault, in the order of 30_encoding.md R140. -/
def FatalCode.all : List FatalCode :=
  [.badMagic, .badVersion, .badEncoding, .badSize, .badFrameRate, .noFiles, .enumError, .openError, .readError,
    .shortRead, .seekError, .presentError, .zeroFrameCount, .unsupportedEncoding, .busModeViolation, .illegalOp,
    .noStream, .noHeader, .noRate, .noTimestamp, .fbUnwritten]

theorem FatalCode.mem_all (c : FatalCode) : c ∈ all := by cases c <;> decide

theorem FatalCode.code_injective : Function.Injective FatalCode.code := fun c d =>
  have hnodup : (all.map FatalCode.code).Nodup := by decide
  List.inj_on_of_nodup_map hnodup c.mem_all d.mem_all

/-- Settles O38: the codes by evaluation, none of them 0, and no two of the list the same. -/
theorem faultCodesAreDistinct : Obligations.FaultCodesAreDistinct := by
  unfold Obligations.FaultCodesAreDistinct
  refine ⟨rfl, rfl, rfl, rfl, rfl, rfl, rfl, rfl, rfl, rfl, rfl, rfl, rfl, rfl, rfl, rfl, rfl, rfl, rfl, rfl, rfl, ?_⟩
  exact fun c d => ⟨c.code_ne_zero, fun h => FatalCode.code_injective h⟩

/-! ### A header that fails to decode -/

theorem execHdrDec_err {s : State} {e : HeaderError} (hv : s.hbufValid = true)
    (he : decodeHeader s.hdrBuf s.par.ratePolicy = .err e) :
    execHdrDec s = .next (raise s (headerFault s.hdrBuf e).1 (headerFault s.hdrBuf e).2) := by
  simp only [execHdrDec, need_pos hv, he]

theorem toNat_wordInfo (w : Byte) : (wordInfo w).toNat = w.toNat := by
  unfold wordInfo
  rw [BitVec.toNat_setWidth_of_le (by decide)]

/-- Two bytes in an info word, the first above the second (30_encoding.md R140). -/
theorem toNat_zeroExtend_append (a b : Byte) : ((a ++ b).zeroExtend 32).toNat = 256 * a.toNat + b.toNat := by
  rw [BitVec.toNat_setWidth_of_le (by decide), BitVec.toNat_append, ← Nat.shiftLeft_add_eq_or_of_lt b.isLt,
    Nat.shiftLeft_eq]
  omega

/-- Settles O56: HDR.DEC raises the error's fault, and under Halt that writes the latch, the record and `halted` and
nothing else. -/
theorem formatErrorsLatchTheBytes : Obligations.FormatErrorsLatchTheBytes := by
  intro s e hv hhalt he
  refine ⟨_, execHdrDec_err hv he, ?_⟩
  rw [raise_halt hhalt]
  refine ⟨rfl, rfl, rfl, ?_, ?_, ?_, ?_, ?_, ?_⟩
  · rintro rfl
    exact ⟨rfl, toNat_zeroExtend_append _ _⟩
  · rintro rfl
    exact ⟨rfl, toNat_wordInfo _⟩
  · rintro rfl
    exact ⟨rfl, toNat_wordInfo _⟩
  · rintro rfl
    exact ⟨rfl, toNat_wordInfo _⟩
  · rintro rfl
    exact ⟨rfl, toNat_zeroExtend_append _ _⟩
  · simp [SameCodec, SameHeaderBytes, SameHeaderRegs, SameRate, SameStream, SameLoader, SamePlay, SameIteration,
      SameDelay, Passed, SameFixed, State.timeNow, State.draw]

end Sys2Proof.Machine

namespace Sys2Proof.Machine

open Sys2Proof

/-! ### Playback in a healthy environment -/

/-- The ops of the normative ROM, by address (42_boot.md R300). -/
def normativeOps : List Instr :=
  [.spdS, .select, .spdS, .hdrRd, .hdrDec, .hdrAcc, .rateQ, .hint, .load, .iterBegin, .teRise, .teFall, .settle, .spdD,
    .present, .blOn2, .spdS, .loopchk, .load, .spdD, .pace, .jmp 9]

theorem State.RomInv.runs {s : State} (h : s.RomInv) : runs s (normativeOps.getD s.upc.toNat .load) := by
  have hfetch : fetch s = normativeRom[s.upc.toNat]'s.upc.isLt := by simp only [fetch, h.rom]
  rw [Machine.runs, hfetch]
  exact decodeOp_normativeRom ⟨s.upc.toNat, s.upc.isLt⟩ h.upcLe

/-- From `s` to `t` playback goes on: past the header and not halted, with no new fault, the same file, and the header
registers that say how many frames of which size it holds. `PlaysOn s s` says that `s` is past the header and not
halted. -/
structure PlaysOn (s t : State) : Prop where
  halted : t.halted = false
  quiet : fatals t.events = fatals s.events
  past : 6 ≤ t.upc.toNat
  file : t.file = s.file
  hdrCount : t.hdrCount = s.hdrCount
  hdrSize : t.hdrSize = s.hdrSize

section

variable {s u : State}

theorem PlaysOn.stay (h : PlaysOn s u) : PlaysOn s (stay u) := { h with }

theorem PlaysOn.completeAt (h : PlaysOn s u) {a : Addr} (ha : 6 ≤ a.toNat) : PlaysOn s (completeAt u a) :=
  { h with past := ha }

/-- The address after one of the normative ROM's is still past the header: `upc` does not wrap, since the ROM ends at
address 21. -/
theorem PlaysOn.complete (h : PlaysOn s u) (hle : u.upc.toNat ≤ 21) : PlaysOn s (complete u) :=
  h.completeAt (a := u.upc + 1) (by have := h.past; bv_omega)

theorem PlaysOn.need {ok : Bool} {c : FatalCode} {info : Word32} {s' : State} (hok : ok = true) (h : PlaysOn s u) :
    PlaysOn s (need ok c info s' u) := by rwa [need_pos hok]

/-- An unanswered transaction holds, and playback goes on after it. -/
theorem PlaysOn.answered (h : PlaysOn s u) {next : State} (hnext : PlaysOn s next) : PlaysOn s (answered u next) :=
  answered_elim (fun _ => h.stay) fun _ => hnext

theorem PlaysOn.setSpeed (h : PlaysOn s u) (hle : u.upc.toNat ≤ 21) {hz : Nat} {mode : BusMode} :
    PlaysOn s (setSpeed u hz mode) :=
  h.answered (.complete { h with } hle)

theorem PlaysOn.teWait (h : PlaysOn s u) (hle : u.upc.toNat ≤ 21) {level : Bool} : PlaysOn s (teWait u level) := by
  rcases teWait_cases u level with ⟨-, hx⟩ | ⟨-, hx⟩ <;> rw [hx]
  · exact .complete { h with } hle
  · exact .stay { h with }

theorem PlaysOn.delayStep (h : PlaysOn s u) (hle : u.upc.toNat ≤ 21) {t len : Micros} :
    PlaysOn s (delayStep u t len) := by
  cases ha : u.dlyActive with
  | true =>
    rw [delayStep_running t len ha]
    split
    · exact .complete { h with } hle
    · exact h.stay
  | false =>
    rw [delayStep_first t len ha]
    split
    · exact .complete { h with } hle
    · exact .stay { h with }

theorem PlaysOn.loadBatch (h : PlaysOn s u) (hle : u.upc.toNat ≤ 21) {r : Routine} {bytes : List Byte} :
    PlaysOn s (loadBatch u r bytes) := by
  by_cases hmore : u.bidx.toNat + 1 < r.batches
  · rw [loadBatch_more bytes hmore]
    exact .stay { h with }
  · rw [loadBatch_last bytes hmore]
    exact .complete { h with } hle

/-- A LOAD step that reads its whole batch goes on. -/
theorem PlaysOn.loadStep (h : PlaysOn s u) (hle : u.upc.toNat ≤ 21) {r : Routine} {bytes : List Byte}
    (hread : streamRead u r.batchBytes = some bytes) (hlen : bytes.length = r.batchBytes) :
    PlaysOn s (loadStep u r) := by
  rcases loadStep_cases u r with ⟨-, hx⟩ | ⟨-, hnone, -⟩ | ⟨b, -, hshort, hlt, -⟩ | ⟨b, -, -, -, hx⟩
  · exact hx ▸ h.stay
  · cases hread.symm.trans hnone
  · obtain rfl := Option.some.inj (hread.symm.trans hshort)
    omega
  · rw [hx]
    have hemit : PlaysOn s (u.emit (.streamRead r.batchBytes (some r.batchBytes))) := { h with }
    exact hemit.loadBatch hle

theorem PlaysOn.loopSeek (h : PlaysOn s u) (hle : u.upc.toNat ≤ 21) (hseek : u.draw.seeks = true) :
    PlaysOn s (loopSeek u) := by
  rcases loopSeek_cases u with ⟨-, hx⟩ | ⟨-, -, hx⟩ | ⟨-, hfail, -⟩
  · exact hx ▸ h.stay
  · exact hx ▸ .complete { h with } hle
  · cases hseek.symm.trans hfail

theorem PlaysOn.execBlOn2 (h : PlaysOn s s) (hle : s.upc.toNat ≤ 21) :
    ∃ t, exec .blOn2 s = .next t ∧ PlaysOn s t := by
  refine ⟨_, rfl, ?_⟩
  split
  · exact h.answered (.complete { h with } hle)
  · exact h.complete hle

end

theorem execLoad_of_ready {s : State} {r : Routine} (hready : loadReady s = true) (hr : routineOf s.hdrSize = some r)
    (hb : s.bidx.toNat < r.batches) : execLoad s = .next (loadStep s r) := by
  simp only [execLoad, hready, hr, if_true, if_pos hb]

/-- The batch that a LOAD of a counted frame reads lies inside the file (41_loader.md R252, 30_encoding.md R125). -/
theorem batch_inside_file {s : State} {r : Routine}
    (hcursor : s.cursor.toNat = 8 + s.fss.toNat * r.frameBytes + s.bidx.toNat * r.batchBytes)
    (hfss : s.fss.toNat < s.hdrCount.toNat) (hb : s.bidx.toNat < r.batches)
    (hfile : holdsFrames s.file r s.hdrCount.toNat) : s.cursor.toNat + r.batchBytes ≤ s.file.length := by
  have hbatch : (s.bidx.toNat + 1) * r.batchBytes ≤ r.frameBytes := by
    rw [r.frameBytes_eq]
    exact Nat.mul_le_mul_right _ hb
  have hframe : (s.fss.toNat + 1) * r.frameBytes ≤ s.hdrCount.toNat * r.frameBytes := Nat.mul_le_mul_right _ hfss
  unfold holdsFrames at hfile
  rw [Nat.succ_mul] at hbatch hframe
  omega

/-- At a LOAD of the ROM one more frame is left to read: the first at the prime LOAD, and the one that LOOPCHK has
made sure of at the other. -/
theorem State.RomInv.fss_lt_hdrCount {s : State} (h : s.RomInv) (hh : s.halted = false)
    (hu : s.upc.toNat = 8 ∨ s.upc.toNat = 18) : s.fss.toNat < s.hdrCount.toNat := by
  rcases hu with hu | hu
  · obtain ⟨-, hcount⟩ := h.accepted hh (by omega)
    have hfss : s.fss = 0 := h.unloaded hh (by omega) (by omega)
    rw [hfss]
    bv_omega
  · exact h.beforeLast hh hu

section

variable {s : State} {r : Routine} (h : s.RomInv) (hh : s.halted = false) (hp : PlaysOn s s)
include h hh hp

/-- A LOAD of the ROM on a file that holds its frames and a device that answers in full. -/
theorem State.RomInv.load_playsOn (hu : s.upc.toNat = 8 ∨ s.upc.toNat = 18) (hr : routineOf s.hdrSize = some r)
    (hfile : holdsFrames s.file r s.hdrCount.toNat) {k : Nat} (hk : s.draw.read = some k) (hfull : sbBytes ≤ k) :
    ∃ t, exec .load s = .next t ∧ PlaysOn s t := by
  have hstorage := h.storage hh (by omega)
  have hstream := h.stream hh (by omega)
  have hvalid := h.headerRegs hh (by omega)
  obtain ⟨henc, -⟩ := h.accepted hh (by omega)
  have hready : loadReady s = true := by simp [loadReady, hstorage, hstream, hvalid, henc]
  obtain ⟨-, -, r', hr', hb, -⟩ := h.inv.header hvalid
  obtain rfl := Option.some.inj (hr.symm.trans hr')
  have hinside := batch_inside_file (h.cursorAt hh (by omega) r hr) (h.fss_lt_hdrCount hh hu) hb hfile
  obtain ⟨bytes, hread, hlen⟩ := streamRead_full hk (r.batchBytes_le.trans hfull) hinside
  exact ⟨loadStep s r, execLoad_of_ready hready hr hb, hp.loadStep h.upcLe hread hlen⟩

theorem State.RomInv.loopchk_playsOn (hu : s.upc.toNat = 17) (hseek : s.draw.seeks = true) :
    ∃ t, exec .loopchk s = .next t ∧ PlaysOn s t := by
  have hstorage : decide (s.busMode = .storage) = true := decide_eq_true (h.storage hh (by omega))
  refine ⟨_, rfl, .need hstorage (.need (h.stream hh (by omega)) (.need (h.headerRegs hh (by omega)) ?_))⟩
  split
  · exact hp.loopSeek h.upcLe hseek
  · exact hp.complete h.upcLe

theorem State.RomInv.present_playsOn (hu : s.upc.toNat = 14) (hpresent : s.draw.presents = true) :
    ∃ t, exec .present s = .next t ∧ PlaysOn s t := by
  have hdisplay : decide (s.busMode = .display) = true := decide_eq_true (h.display hh (by omega))
  refine ⟨_, rfl, .need hdisplay (.need (h.primed hh (by omega)) (hp.answered ?_))⟩
  dsimp only
  rw [if_pos hpresent]
  exact .complete { hp with } h.upcLe

theorem State.RomInv.pace_playsOn (hu : s.upc.toNat = 20) : ∃ t, exec .pace s = .next t ∧ PlaysOn s t := by
  refine ⟨_, rfl, ?_⟩
  split
  · exact hp.delayStep h.upcLe
  · have hsleep : PlaysOn s { s with paceSleepUs := paceSleep s s.now } := { hp with }
    exact .need (h.rated hh (by omega)) (.need (h.stamped hh (by omega)) (hsleep.delayStep h.upcLe))

/-- The op at each address past the header, in a healthy environment. -/
theorem State.RomInv.exec_playsOn (hr : routineOf s.hdrSize = some r)
    (hfile : holdsFrames s.file r s.hdrCount.toNat) (hd : healthyDraw s.draw) :
    ∃ t, exec (normativeOps.getD s.upc.toNat .load) s = .next t ∧ PlaysOn s t := by
  obtain ⟨-, -, -, ⟨k, hk, hfull⟩, hseek, hpresent⟩ := hd
  have hpast := hp.past
  have hle := h.upcLe
  have hvalid := h.headerRegs hh (by omega)
  generalize hu : s.upc.toNat = n at hpast hle
  interval_cases n
  · -- 6: RATE.Q
    exact ⟨_, rfl, .need hvalid (.complete { hp with } h.upcLe)⟩
  · -- 7: HINT
    exact ⟨_, rfl, .need hvalid (.need (h.rated hh (by omega)) (.complete { hp with } h.upcLe))⟩
  · -- 8: LOAD
    exact h.load_playsOn hh hp (.inl hu) hr hfile hk hfull
  · -- 9: ITER.BEGIN
    exact ⟨_, rfl, .complete { hp with } h.upcLe⟩
  · -- 10: TE.RISE
    exact ⟨_, rfl, hp.teWait h.upcLe⟩
  · -- 11: TE.FALL
    exact ⟨_, rfl, hp.teWait h.upcLe⟩
  · -- 12: SETTLE
    exact ⟨_, rfl, hp.delayStep h.upcLe⟩
  · -- 13: SPD.D
    exact ⟨_, rfl, hp.setSpeed h.upcLe⟩
  · -- 14: PRESENT
    exact h.present_playsOn hh hp hu hpresent
  · -- 15: BL.ON2
    exact hp.execBlOn2 h.upcLe
  · -- 16: SPD.S
    exact ⟨_, rfl, hp.setSpeed h.upcLe⟩
  · -- 17: LOOPCHK
    exact h.loopchk_playsOn hh hp hu hseek
  · -- 18: LOAD
    exact h.load_playsOn hh hp (.inr hu) hr hfile hk hfull
  · -- 19: SPD.D
    exact ⟨_, rfl, hp.setSpeed h.upcLe⟩
  · -- 20: PACE
    exact h.pace_playsOn hh hp hu
  · -- 21: JMP 9
    exact ⟨_, rfl, hp.completeAt (by decide)⟩

end

/-- Settles O53: with no reset the step runs the op that the ROM holds at `upc`, and that op finds its preconditions by
the ROM's invariant and its transactions by the healthy draw and the file's length. -/
theorem healthyPlaybackNeverFaults : Obligations.HealthyPlaybackNeverFaults := by
  intro s r h hh hpast hr hfile hd
  have hp : PlaysOn s s := ⟨hh, rfl, hpast, rfl, rfl, rfl⟩
  obtain ⟨t, hx, ht⟩ := h.exec_playsOn hh hp hr hfile hd
  have hreset : s.draw.reset = false := hd.1
  have hstep : step s = .next t := (step_of_runs hreset hh h.runs).trans hx
  exact ⟨t, hstep, ht.halted, ht.quiet, ht.past, ht.file, ht.hdrCount, ht.hdrSize⟩

end Sys2Proof.Machine

namespace Sys2Proof.Machine

open Sys2Proof

/-! ### The header codec -/

/-- The record of a header's bytes, valid or not (40_codec.md R201). -/
def headerRecord (b : Vector Byte 8) : Header :=
  { version := b[2], encoding := b[3], size := b[4], frameRate := b[5], frameCount := frameCountOf b }

section

variable {b : Vector Byte 8} {p : RatePolicy}

/-! What `decodeHeader` answers, check by check in the order of 40_codec.md R202. -/

theorem decodeHeader_badMagic (hmagic : b[0] ≠ 0x4C ∨ b[1] ≠ 0x55) : decodeHeader b p = .err .badMagic := by
  rw [decodeHeader, if_pos hmagic]

variable (h0 : b[0] = 0x4C) (h1 : b[1] = 0x55)
include h0 h1

theorem decodeHeader_badVersion (hver : b[2] ≠ 0) : decodeHeader b p = .err .badVersion := by
  rw [decodeHeader, if_neg (by simp [h0, h1]), if_pos hver]

theorem decodeHeader_badEncoding (hver : b[2] = 0) (henc : ¬(b[3] = 0 ∨ b[3] = 1)) :
    decodeHeader b p = .err .badEncoding := by
  rw [decodeHeader, if_neg (by simp [h0, h1]), if_neg (not_not_intro hver), if_pos (not_or.1 henc)]

theorem decodeHeader_badSize (hver : b[2] = 0) (henc : b[3] = 0 ∨ b[3] = 1)
    (hsize : ¬(b[4] = 60 ∨ b[4] = 120 ∨ b[4] = 240)) : decodeHeader b p = .err .badSize := by
  rw [decodeHeader, if_neg (by simp [h0, h1]), if_neg (not_not_intro hver), if_neg (by tauto), if_pos (by tauto)]

/-- Past the size check the answer turns on the frame rate alone, and on that only under Strict. -/
theorem decodeHeader_rateCheck (hver : b[2] = 0) (henc : b[3] = 0 ∨ b[3] = 1)
    (hsize : b[4] = 60 ∨ b[4] = 120 ∨ b[4] = 240) :
    decodeHeader b p =
      if p = .strict ∧ supportedRate b[4] b[5] = false then .err .badFrameRate else .ok (headerRecord b) := by
  rw [decodeHeader, if_neg (by simp [h0, h1]), if_neg (not_not_intro hver), if_neg (by tauto), if_neg (by tauto),
    headerRecord]

end

/-- A header of the bytes that decode asks for, in a record that it accepts (40_codec.md R202). -/
theorem decodeHeader_eq_ok_iff {b : Vector Byte 8} {p : RatePolicy} {h : Header} :
    decodeHeader b p = .ok h ↔
      (b[0] = 0x4C ∧ b[1] = 0x55 ∧ b[2] = 0 ∧ (b[3] = 0 ∨ b[3] = 1) ∧ (b[4] = 60 ∨ b[4] = 120 ∨ b[4] = 240) ∧
        (p = .strict → supportedRate b[4] b[5] = true) ∧ h = headerRecord b) := by
  refine ⟨decodeHeader_ok, ?_⟩
  rintro ⟨h0, h1, hver, henc, hsize, hrate, rfl⟩
  rw [decodeHeader_rateCheck h0 h1 hver henc hsize, if_neg]
  rintro ⟨hp, hbad⟩
  simp [hrate hp] at hbad

/-- The rate check is asked only under Strict, and only of the three sizes (40_codec.md R203). -/
theorem of_decodeHeader_badFrameRate {b : Vector Byte 8} {p : RatePolicy}
    (hd : decodeHeader b p = .err .badFrameRate) :
    p = .strict ∧ (b[4] = 60 ∨ b[4] = 120 ∨ b[4] = 240) ∧ supportedRate b[4] b[5] = false := by
  unfold decodeHeader at hd
  split_ifs at hd <;> cases hd
  next hsize hrate => exact ⟨hrate.1, by tauto, hrate.2⟩

theorem headerRecord_encodeHeader (h : Header) : headerRecord (encodeHeader h) = h := by
  rw [headerRecord, frameCountOf_encodeHeader]
  rfl

theorem encodeHeader_headerRecord {b : Vector Byte 8} (h0 : b[0] = 0x4C) (h1 : b[1] = 0x55) :
    encodeHeader (headerRecord b) = b := by
  have hlow : (frameCountOf b).extractLsb' 0 8 = b[6] := append_low _ _
  have hhigh : (frameCountOf b).extractLsb' 8 8 = b[7] := append_high _ _
  refine Vector.ext fun i hi => ?_
  simp only [encodeHeader, headerRecord, hlow, hhigh]
  interval_cases i
  · exact h0.symm
  · exact h1.symm
  all_goals rfl

/-- The frame-rate byte is read into its own field alone. -/
theorem headerRecord_set_rate (b : Vector Byte 8) (v : Byte) :
    headerRecord (b.set 5 v) = { headerRecord b with frameRate := v } := by
  simp [headerRecord, frameCountOf]

/-- Settles O6: an encoded header holds what decode checks and its own record, and a header that decodes is the layout
of its record. -/
theorem headerRoundTrip : Obligations.HeaderRoundTrip := by
  refine ⟨fun h p hver henc hsize hrate => ?_, fun b p h hd => ?_⟩
  · exact decodeHeader_eq_ok_iff.2 ⟨rfl, rfl, hver, henc, hsize, hrate, (headerRecord_encodeHeader h).symm⟩
  · obtain ⟨h0, h1, -, -, -, -, rfl⟩ := decodeHeader_eq_ok_iff.1 hd
    exact encodeHeader_headerRecord h0 h1

/-- Settles O7: each replaced byte leaves the bytes of the checks before it as they were, and fails its own. -/
theorem headerMutationsAreNamed : Obligations.HeaderMutationsAreNamed := by
  intro b h hd p v
  obtain ⟨h0, h1, hver, henc, hsize, -, -⟩ := decodeHeader_eq_ok_iff.1 hd
  refine ⟨fun hv => ?_, fun hv => ?_, fun hv => ?_, fun hv => ?_, fun h60 h120 h240 => ?_, fun hv => ⟨?_, ?_⟩⟩
  · exact decodeHeader_badMagic (.inl (by simpa using hv))
  · exact decodeHeader_badMagic (.inr (by simpa using hv))
  · exact decodeHeader_badVersion (by simpa) (by simpa) (by simpa using hv)
  · have hbad : ¬(v = 0 ∨ v = 1) := by bv_omega
    exact decodeHeader_badEncoding (by simpa) (by simpa) (by simpa) (by simpa using hbad)
  · have hbad : ¬(v = 60 ∨ v = 120 ∨ v = 240) := by tauto
    exact decodeHeader_badSize (by simpa) (by simpa) (by simpa) (by simpa) (by simpa using hbad)
  · rw [decodeHeader_rateCheck (by simpa) (by simpa) (by simpa) (by simpa) (by simpa), if_pos]
    simpa using hv
  · refine ⟨headerRecord (b.set 5 v), decodeHeader_eq_ok_iff.2 ?_, ?_⟩
    · simpa using ⟨h0, h1, hver, henc, hsize⟩
    · rw [headerRecord_set_rate]

/-- Settles O8: BAD_FRAME_RATE is the answer of the last check alone, and under Lenient no check reads byte 5. -/
theorem rateCheckIsStrictOnly : Obligations.RateCheckIsStrictOnly := by
  refine ⟨fun b p => of_decodeHeader_badFrameRate, fun b h hd v => ?_⟩
  obtain ⟨h0, h1, hver, henc, hsize, -, rfl⟩ := decodeHeader_eq_ok_iff.1 hd
  refine decodeHeader_eq_ok_iff.2 ?_
  simpa [headerRecord_set_rate] using ⟨h0, h1, hver, henc, hsize⟩

/-! ### The codec ops -/

/-- What every codec op that completes leaves as it was, and how the environment moves on. -/
def KeepsBesideCodec (s t : State) : Prop :=
  t.busMode = s.busMode ∧ SameStream s t ∧ SameLoader s t ∧ SamePlay s t ∧ t.events = s.events ∧ Quiet s t

/-- The codec ops write the header, rate and hint registers alone. -/
theorem Writes.complete_keepsBesideCodec {i : Instr} {s u : State} (hw : Writes s i u)
    (hi : i ∈ [Instr.hdrDec, .hdrAcc, .rateQ, .hint]) : KeepsBesideCodec s (complete u) := by
  cases hw with
  | nothing | header | rate | hint =>
    exact ⟨rfl, ⟨rfl, rfl, rfl, rfl, rfl⟩, ⟨rfl, rfl, fun _ => rfl, fun _ => rfl⟩,
      ⟨⟨rfl, rfl, rfl⟩, rfl, ⟨rfl, rfl, rfl, rfl⟩, rfl⟩, rfl, ⟨rfl, rfl, rfl⟩, ⟨rfl, rfl⟩, rfl, rfl, rfl, rfl⟩
  | busMode hop | sampled hop => rcases hop with rfl | rfl <;> simp at hi
  | _ => simp at hi

/-- HDR.DEC of a header that decodes (40_codec.md R211). -/
theorem execHdrDec_ok {s : State} {h : Header} (hv : s.hbufValid = true)
    (hd : decodeHeader s.hdrBuf s.par.ratePolicy = .ok h) :
    execHdrDec s =
      .next (complete
        { s with
          hdrVersion := h.version, hdrEncoding := h.encoding, hdrSize := h.size, hdrRate := h.frameRate,
          hdrCount := h.frameCount, hdrValid := true }) := by
  simp only [execHdrDec, need_pos hv, hd]

/-- Settles O9: HDR.DEC answers what `decodeHeader` does, and a record that it accepts is the header's bytes. -/
theorem hdrDecDecodesTheHeader : Obligations.HdrDecDecodesTheHeader := by
  refine fun s => ⟨fun hv => ?_, fun hv => ⟨fun e he => execHdrDec_err hv he, fun h hd => ?_⟩⟩
  · exact congrArg _ (need_neg hv ..)
  · refine ⟨_, execHdrDec_ok hv hd, ?_⟩
    have hframe := (Writes.header hd).complete_keepsBesideCodec (by decide)
    obtain ⟨-, -, -, -, -, -, rfl⟩ := decodeHeader_ok hd
    exact ⟨rfl, rfl, rfl, rfl, toNat_frameCountOf _, rfl, rfl, ⟨rfl, rfl⟩, ⟨rfl, rfl, rfl, rfl⟩, rfl, hframe⟩

/-- Settles O10: the three checks one after the other, and the step that passes them writes no register of its own. -/
theorem hdrAccAcceptsPlayableHeaders : Obligations.HdrAccAcceptsPlayableHeaders := by
  refine fun s => ⟨fun hv => ?_, fun hv henc => ?_, fun hv henc hcount => ?_, fun hv henc hcount => ?_⟩
  · exact congrArg _ (need_neg hv ..)
  · simp only [exec, execHdrAcc, need_pos hv, need_neg (decide_eq_false henc)]
  · simp only [exec, execHdrAcc, need_pos hv, need_pos (decide_eq_true henc),
      need_neg (decide_eq_false (not_not_intro hcount))]
  · have hx : exec .hdrAcc s = .next (complete s) := by
      simp only [exec, execHdrAcc, need_pos hv, need_pos (decide_eq_true henc), need_pos (decide_eq_true hcount)]
    refine ⟨_, hx, rfl, ?_, (Writes.nothing .hdrAcc).complete_keepsBesideCodec (by decide)⟩
    exact ⟨⟨rfl, rfl⟩, ⟨rfl, rfl, rfl, rfl, rfl, rfl⟩, ⟨rfl, rfl, rfl, rfl⟩, rfl⟩

/-! ### The quantizer -/

/-- The highest rate the quantizer returns at a size: its clamp at 120 and 240, the highest bucket at 60 (40_codec.md
R207). -/
def Routine.maxRate : Routine → Nat
  | .blit60 => 24
  | .blit120 => 12
  | .blit240 => 4

/-- The highest member of S(size) (40_codec.md R204). -/
def Routine.topSupported : Routine → Nat
  | .blit60 => 24
  | .blit120 => 12
  | .blit240 => 8

theorem Routine.maxRate_le_topSupported (r : Routine) : r.maxRate ≤ r.topSupported := by cases r <;> decide

theorem bucket_mem (raw : Nat) : (bucket raw).1 ∈ quantizedRates := quantize_mem raw 60

theorem routineOf_cases {size : Byte} {r : Routine} (hr : routineOf size = some r) :
    (size = 60 ∧ r = .blit60) ∨ (size = 120 ∧ r = .blit120) ∨ (size = 240 ∧ r = .blit240) := by
  unfold routineOf at hr
  split_ifs at hr with h60 h120 h240 <;> simp_all

/-- At a legal size the quantizer is the bucket and one clamp (40_codec.md R207). -/
theorem quantize_of_routine {size : Byte} {r : Routine} (hr : routineOf size = some r) (raw : Nat) :
    quantize raw size = (min (bucket raw).1 r.maxRate, (bucket raw).2) := by
  have hle : ∀ q ∈ quantizedRates, q ≤ 24 := by decide
  rcases routineOf_cases hr with ⟨rfl, rfl⟩ | ⟨rfl, rfl⟩ | ⟨rfl, rfl⟩
  · have h24 : min (bucket raw).1 24 = (bucket raw).1 := min_eq_left (hle _ (bucket_mem raw))
    rw [Routine.maxRate, h24]
    rfl
  · rfl
  · rfl

/-- The rates of the quantizer are in buckets of their own (40_codec.md R206). -/
theorem bucket_of_mem : ∀ q ∈ quantizedRates, (bucket q).1 = q := by decide

theorem toNat_quantize (raw : Nat) (size : Byte) :
    (BitVec.ofNat 8 (quantize raw size).1).toNat = (quantize raw size).1 := by
  have hsmall : ∀ q ∈ quantizedRates, q < 2 ^ 8 := by decide
  rw [BitVec.toNat_ofNat, Nat.mod_eq_of_lt (hsmall _ (quantize_mem raw size))]

/-- A budget is at most a second, and so fits its register (40_codec.md R208). -/
theorem toNat_budget (q : Nat) : (BitVec.ofNat 32 (budget q)).toNat = budget q := by
  have hle : budget q ≤ 1000000 := (Nat.sub_le _ _).trans (Nat.div_le_self _ _)
  rw [BitVec.toNat_ofNat, Nat.mod_eq_of_lt (by omega)]

/-- The columns of the rate table differ by the clamp of their size (95_test_vectors.md section 2.2). -/
theorem rateTable_at (r : Routine) : ∀ row ∈ rateTable, row.at r = min row.at60 r.maxRate := by
  cases r <;> decide

/-- The rows of the rate table are the buckets (95_test_vectors.md section 2.2, 40_codec.md R206). -/
theorem bucket_of_row {row : RateRow} (hrow : row ∈ rateTable) {raw : Nat} (hlo : row.lo ≤ raw)
    (hhi : raw ≤ row.hi) : bucket raw = (row.at60, row.diag) := by
  unfold rateTable at hrow
  fin_cases hrow <;> grind [bucket]

theorem quantize_of_row {size : Byte} {r : Routine} (hr : routineOf size = some r) {row : RateRow}
    (hrow : row ∈ rateTable) {raw : Nat} (hlo : row.lo ≤ raw) (hhi : raw ≤ row.hi) :
    quantize raw size = (row.at r, row.diag) := by
  rw [quantize_of_routine hr, bucket_of_row hrow hlo hhi, rateTable_at r row hrow]

/-- S(size) is the rates of the quantizer up to the highest that the size supports (40_codec.md R204). -/
theorem supportedRate_iff {size : Byte} {r : Routine} (hr : routineOf size = some r) (rate : Byte) :
    supportedRate size rate = true ↔ rate.toNat ∈ quantizedRates ∧ rate.toNat ≤ r.topSupported := by
  have hfilter : supportedRate size rate = decide (rate.toNat ∈ quantizedRates.filter (· ≤ r.topSupported)) := by
    rcases routineOf_cases hr with ⟨rfl, rfl⟩ | ⟨rfl, rfl⟩ | ⟨rfl, rfl⟩ <;> rfl
  rw [hfilter, decide_eq_true_eq, List.mem_filter, decide_eq_true_eq]

/-- Only at size 240 does the clamp cut supported rates off (40_codec.md R209). -/
theorem maxRate_cases {size : Byte} {r : Routine} (hr : routineOf size = some r) :
    (size = 240 ∧ r.maxRate = 4) ∨ (size ≠ 240 ∧ r.maxRate = r.topSupported) := by
  rcases routineOf_cases hr with ⟨rfl, rfl⟩ | ⟨rfl, rfl⟩ | ⟨rfl, rfl⟩ <;> decide

/-- Settles O13: the clamp stays inside S(size), and a member of S(size) is its own bucket, so that the clamp alone
can change it. -/
theorem quantizedRatesAreSupported : Obligations.QuantizedRatesAreSupported := by
  intro size rate hsize
  obtain ⟨r, hr⟩ := exists_routineOf hsize
  have hmem : (quantize rate.toNat size).1 ∈ quantizedRates := quantize_mem _ _
  have hmax : (quantize rate.toNat size).1 ≤ r.maxRate := by
    rw [quantize_of_routine hr]
    exact min_le_right _ _
  have hclamp : rate.toNat ∈ quantizedRates → (quantize rate.toNat size).1 = min rate.toNat r.maxRate := fun h => by
    rw [quantize_of_routine hr, bucket_of_mem _ h]
  refine ⟨?_, ?_, fun hs => ?_, ?_⟩
  · rw [supportedRate_iff hr, toNat_quantize]
    exact ⟨hmem, hmax.trans r.maxRate_le_topSupported⟩
  · rintro rfl
    obtain rfl := Option.some.inj hr
    have hfour : ∀ q ∈ quantizedRates, q ≤ 4 → q ∈ [1, 2, 3, 4] := by decide
    exact hfour _ hmem hmax
  · obtain ⟨hrate, htop⟩ := (supportedRate_iff hr rate).1 hs
    rw [hclamp hrate]
    rcases maxRate_cases hr with ⟨h240, hm⟩ | ⟨h240, hm⟩
    · rw [if_pos h240, hm]
    · rw [if_neg h240, hm, min_eq_left htop]
  · have hsmall : ∀ n ≤ 4, 1 ≤ n → n ∈ quantizedRates := by decide
    rintro rfl ⟨hpos, hfour⟩
    obtain rfl := Option.some.inj hr
    rw [hclamp (hsmall _ hfour hpos)]
    exact min_eq_left hfour

/-! ### RATE.Q and HINT -/

/-- RATE.Q of a valid header (40_codec.md R214). -/
theorem execRateQ_valid {s : State} (hv : s.hdrValid = true) :
    execRateQ s =
      .next (complete
        { s with
          rateQ := BitVec.ofNat 8 (quantize s.hdrRate.toNat s.hdrSize).1,
          budgetUs := BitVec.ofNat 32 (budget (quantize s.hdrRate.toNat s.hdrSize).1),
          rateDiag := (quantize s.hdrRate.toNat s.hdrSize).2, rateValid := true }) :=
  congrArg _ (need_pos hv ..)

/-- Settles O12: the quantizer is total, and its rates fit the byte. -/
theorem rateQCompletesOnEverySize : Obligations.RateQCompletesOnEverySize := by
  intro s hv
  have hq := toNat_quantize s.hdrRate.toNat s.hdrSize
  have hframe := (Writes.rate (s := s) s.hdrRate.toNat s.hdrSize).complete_keepsBesideCodec (by decide)
  refine ⟨_, execRateQ_valid hv, hq, ?_, ?_, rfl, rfl, rfl, ⟨rfl, rfl⟩, ⟨rfl, rfl, rfl, rfl, rfl, rfl⟩, rfl, hframe⟩
  · rw [complete_rateQ, hq]
    exact quantize_mem _ _
  · rw [complete_rateQ, hq, complete_budgetUs]

/-- Settles O11: RATE.Q latches what the quantizer returns, and that is the row of the raw rate. -/
theorem rateQFollowsTheRateTable : Obligations.RateQFollowsTheRateTable := by
  refine fun s => ⟨fun hv => congrArg _ (need_neg hv ..), fun hv r hr row hrow hlo hhi => ?_⟩
  obtain ⟨t, hx, hrate, -, hbudget, hdiag, hrest⟩ := rateQCompletesOnEverySize s hv
  have hq := quantize_of_row hr hrow hlo hhi
  rw [hq] at hrate hdiag
  rw [hrate] at hbudget
  exact ⟨t, hx, hrate, (congrArg BitVec.toNat hbudget).trans (toNat_budget _), hdiag, hrest⟩

/-- A hint stands in the low 16 bits, its valid bit above them (40_codec.md R215). -/
theorem toNat_hintWord_some (v : BitVec 16) : (hintWord (some v)).toNat = 65536 + v.toNat := by
  rw [hintWord, BitVec.toNat_append, ← Nat.shiftLeft_add_eq_or_of_lt v.isLt]
  rfl

/-- HINT of a valid header at a valid rate (40_codec.md R215). -/
theorem execHint_valid {s : State} (hv : s.hdrValid = true) (hr : s.rateValid = true) :
    execHint s = .next (complete { s with refreshHint := hintWord (lookupHint s.par s.hdrSize s.rateQ) }) := by
  simp only [execHint, need_pos hv, need_pos hr]

/-- Settles O14: the two checks, then the latch of the table's word and of nothing else. -/
theorem hintLatchesTheTableValue : Obligations.HintLatchesTheTableValue := by
  refine fun s => ⟨fun hv => congrArg _ (need_neg hv ..), fun hv hr => ?_, fun hv hr => ?_⟩
  · exact congrArg _ ((need_pos hv ..).trans (need_neg hr ..))
  · have hwrites := Writes.hint (s := s) (hintWord (lookupHint s.par s.hdrSize s.rateQ))
    have hframe := hwrites.complete_keepsBesideCodec (by decide)
    refine ⟨_, execHint_valid hv hr, fun hnone => ?_, fun v hsome => ?_, rfl, ⟨rfl, rfl⟩,
      ⟨rfl, rfl, rfl, rfl, rfl, rfl⟩, ⟨rfl, rfl, rfl, rfl⟩, hframe⟩
    · rw [complete_refreshHint, hnone, hintWord]
    · rw [complete_refreshHint, hsome, toNat_hintWord_some]

end Sys2Proof.Machine

namespace Sys2Proof.Machine

open Sys2Proof

/-! ### The steps of the ROM's ops, write by write

`exec_endsAs` says which registers a step can write. What each address of the ROM finds turns on more: which value is
written, which checks the op has passed, and whether it holds or completes. -/

/-- What an op that holds has written. -/
inductive HoldsWith (s : State) : Instr → State → Prop where
  | unanswered (i : Instr) : HoldsWith s i s
  | batch {r : Routine} {bytes : List Byte} (hr : routineOf s.hdrSize = some r)
      (hread : streamRead s r.batchBytes = some bytes) (hl : bytes.length = r.batchBytes)
      (hb : s.bidx.toNat + 1 < r.batches) :
    HoldsWith s .load
      { s with
        sb := s.sb.writeBytes 0 bytes, cursor := s.cursor + BitVec.ofNat 64 r.batchBytes,
        fb := blit r s.bidx.toNat s.fb (s.sb.writeBytes 0 bytes), bidx := s.bidx + 1 }
  | sampled (i : Instr) (sample : Bool) : HoldsWith s i { s with tePrev := teSeen sample }
  | delay (i : Instr) (t₀ len sleep : Micros) :
    HoldsWith s i { s with dlyT0 := t₀, dlyLen := len, dlyActive := true, paceSleepUs := sleep }

/-- What an op that completes has written, with the checks it has passed. -/
inductive CompletesWith (s : State) : Instr → State → Prop where
  | spdS : CompletesWith s .spdS { s with busMode := .storage }
  | spdD : CompletesWith s .spdD { s with busMode := .display }
  | opened (k : Nat) (file : List Byte) : CompletesWith s .select (openedAt s k file)
  | headerBytes (b : Vector Byte 8) :
    CompletesWith s .hdrRd { s with hdrBuf := b, hbufValid := true, cursor := s.cursor + 8 }
  | header (version encoding size rate : Byte) (count : BitVec 16) :
    CompletesWith s .hdrDec
      { s with
        hdrVersion := version, hdrEncoding := encoding, hdrSize := size, hdrRate := rate, hdrCount := count,
        hdrValid := true }
  | accepted (henc : s.hdrEncoding = 1) (hcount : s.hdrCount ≠ 0) : CompletesWith s .hdrAcc s
  | rate (q : Byte) (us : Micros) (diag : RateDiag) :
    CompletesWith s .rateQ { s with rateQ := q, budgetUs := us, rateDiag := diag, rateValid := true }
  | hint (v : BitVec 17) : CompletesWith s .hint { s with refreshHint := v }
  | lastBatch {r : Routine} {bytes : List Byte} (hr : routineOf s.hdrSize = some r)
      (hread : streamRead s r.batchBytes = some bytes) (hl : bytes.length = r.batchBytes)
      (hb : s.bidx.toNat + 1 = r.batches) :
    CompletesWith s .load
      { s with
        sb := s.sb.writeBytes 0 bytes, cursor := s.cursor + BitVec.ofNat 64 r.batchBytes,
        fb := blit r s.bidx.toNat s.fb (s.sb.writeBytes 0 bytes), bidx := 0, fss := s.fss + 1, fbValid := true }
  | rewound : CompletesWith s .loopchk { s with cursor := 8, fss := 0 }
  | notYet (hne : s.fss ≠ s.hdrCount) : CompletesWith s .loopchk s
  | iteration (n : BitVec 2) (t : Micros) :
    CompletesWith s .iterBegin { s with iter := n, tStart := t, tsValid := true, tePrev := 0b00 }
  | rose (sample : Bool) : CompletesWith s .teRise { s with tePrev := teSeen sample }
  | fell (sample : Bool) : CompletesWith s .teFall { s with tePrev := teSeen sample }
  | settled (t₀ len sleep : Micros) :
    CompletesWith s .settle { s with dlyT0 := t₀, dlyLen := len, dlyActive := false, paceSleepUs := sleep }
  | paced (t₀ len sleep : Micros) :
    CompletesWith s .pace { s with dlyT0 := t₀, dlyLen := len, dlyActive := false, paceSleepUs := sleep }
  | presented : CompletesWith s .present s
  | backlight (b : Bool) : CompletesWith s .blOn2 { s with backlight := b }
  | jumped (k : Nat) : CompletesWith s (.jmp k) s

/-- The address an op that completes leaves in `upc` (00_scope.md R14, 43_playloop.md R350). -/
def nextUpc (u : Addr) : Instr → Addr
  | .jmp k => jumpTarget k
  | _ => u + 1

/-- A step of op `i` from `s`: transactions, then a hold, a completion or a fault. -/
inductive OpStep (i : Instr) (s : State) : State → Prop where
  | holds (es : List Event) {u : State} (hw : HoldsWith (s.emitAll es) i u) : OpStep i s (stay u)
  | completes (es : List Event) {u : State} (hw : CompletesWith (s.emitAll es) i u) :
    OpStep i s (completeAt u (nextUpc s.upc i))
  | faults {u : State} (c : FatalCode) (info : Word32) (hu : u.upc = s.upc := by rfl) : OpStep i s (raise u c info)

theorem OpStep.need {i : Instr} {ok : Bool} {c : FatalCode} {info : Word32} {s next : State}
    (h : ok = true → OpStep i s next) : OpStep i s (need ok c info s next) :=
  need_elim (fun _ => .faults c info) h

theorem OpStep.answered {i : Instr} {s next : State} (h : OpStep i s next) : OpStep i s (answered s next) :=
  answered_elim (fun _ => .holds [] (.unanswered i)) fun _ => h

theorem CompletesWith.upc_eq {i : Instr} {s u : State} (hw : CompletesWith s i u) : u.upc = s.upc := by
  cases hw <;> rfl

/-- Every op but JMP advances `upc` when it completes. -/
theorem OpStep.complete {i : Instr} {s u : State} (es : List Event) (hw : CompletesWith (s.emitAll es) i u)
    (hi : nextUpc s.upc i = s.upc + 1) : OpStep i s (complete u) := by
  have hupc : u.upc = s.upc := hw.upc_eq
  have hstep := OpStep.completes es hw
  rw [hi, ← hupc] at hstep
  exact hstep

theorem OpStep.setSpeed {i : Instr} {s : State} {hz : Nat} {mode : BusMode}
    (h : CompletesWith (s.emit (.busSetSpeed hz s.draw.actualHz)) i
      { s.emit (.busSetSpeed hz s.draw.actualHz) with busMode := mode }) (hi : nextUpc s.upc i = s.upc + 1) :
    OpStep i s (setSpeed s hz mode) :=
  .answered (.complete [.busSetSpeed hz s.draw.actualHz] h hi)

theorem execSelect_opStep {s t : State} (h : execSelect s = .next t) : OpStep .select s t := by
  unfold execSelect at h
  obtain rfl := Host.Outcome.next.inj h
  refine .need fun _ => .answered ?_
  cases dirEnumerate s with
  | none => exact .faults _ _
  | some list =>
    rcases selectFrom_cases (s.emit (.dirEnumerate true)) list with ⟨-, h⟩ | ⟨k, -, -, -, h⟩ | ⟨k, -, -, -, h⟩ <;>
      dsimp only <;> rw [h]
    · exact .faults _ _
    · exact .faults _ _
    · exact .complete [.streamOpen k true, .rngNext s.draw.rng, .dirEnumerate true] (.opened k _) rfl

theorem execHdrRd_opStep {s t : State} (h : execHdrRd s = .next t) : OpStep .hdrRd s t := by
  unfold execHdrRd at h
  obtain rfl := Host.Outcome.next.inj h
  refine .need fun _ => .need fun _ => .answered ?_
  cases streamRead s 8 with
  | none => exact .faults _ _
  | some b =>
    dsimp only
    split
    · exact .faults _ _
    · exact .complete [.streamRead 8 (some b.length)] (.headerBytes _) rfl

theorem execHdrDec_opStep {s t : State} (h : execHdrDec s = .next t) : OpStep .hdrDec s t := by
  unfold execHdrDec at h
  obtain rfl := Host.Outcome.next.inj h
  refine .need fun _ => ?_
  cases decodeHeader s.hdrBuf s.par.ratePolicy with
  | err e => exact .faults _ _
  | ok h => exact .complete [] (.header _ _ _ _ _) rfl

theorem execHdrAcc_opStep {s t : State} (h : execHdrAcc s = .next t) : OpStep .hdrAcc s t := by
  unfold execHdrAcc at h
  obtain rfl := Host.Outcome.next.inj h
  exact .need fun _ => .need fun henc => .need fun hcount =>
    .complete [] (.accepted (of_decide_eq_true henc) (of_decide_eq_true hcount)) rfl

theorem execLoad_opStep {s t : State} (h : execLoad s = .next t) : OpStep .load s t := by
  rcases execLoad_cases s with ⟨-, c, info, hx⟩ | ⟨-, -, hx⟩ | ⟨r, -, -, -, hx⟩ | ⟨r, -, hr, hb, hx⟩ <;>
    rw [hx] at h <;> cases h
  · exact .faults c info
  · rcases loadStep_cases s r with ⟨-, h⟩ | ⟨-, -, h⟩ | ⟨bytes, -, -, -, h⟩ | ⟨bytes, -, hread, hl, h⟩ <;> rw [h]
    · exact .holds [] (.unanswered _)
    · exact .faults _ _
    · exact .faults _ _
    · by_cases hmore : s.bidx.toNat + 1 < r.batches
      · rw [loadBatch_more (s := s.emit _) bytes hmore]
        exact .holds [.streamRead r.batchBytes (some r.batchBytes)] (.batch hr hread hl hmore)
      · rw [loadBatch_last (s := s.emit _) bytes hmore]
        have hlast : s.bidx.toNat + 1 = r.batches := by omega
        exact .complete [.streamRead r.batchBytes (some r.batchBytes)] (.lastBatch hr hread hl hlast) rfl

theorem execLoopchk_opStep {s t : State} (h : execLoopchk s = .next t) : OpStep .loopchk s t := by
  unfold execLoopchk at h
  obtain rfl := Host.Outcome.next.inj h
  refine .need fun _ => .need fun _ => .need fun _ => ?_
  split
  next =>
    rcases loopSeek_cases s with ⟨-, h⟩ | ⟨-, -, h⟩ | ⟨-, -, h⟩ <;> rw [h]
    · exact .holds [] (.unanswered _)
    · exact .complete [.streamSeek 8 true] .rewound rfl
    · exact .faults _ _
  next hne => exact .complete [] (.notYet hne) rfl

theorem teWait_opStep {i : Instr} {s : State} (level : Bool)
    (hw : CompletesWith s i { s with tePrev := teSeen s.draw.te }) (hi : nextUpc s.upc i = s.upc + 1) :
    OpStep i s (teWait s level) := by
  rcases teWait_cases s level with ⟨-, h⟩ | ⟨-, h⟩ <;> rw [h]
  · exact .complete [] hw hi
  · exact .holds [] (.sampled i _)

/-- A step of a delay whose sleep is `sleep` (43_playloop.md R345, R349). -/
theorem delayStep_opStep {i : Instr} {s : State} (sleep t len : Micros)
    (hw : ∀ t₀ len', CompletesWith s i { s with paceSleepUs := sleep, dlyT0 := t₀, dlyLen := len', dlyActive := false })
    (hi : nextUpc s.upc i = s.upc + 1) : OpStep i s (delayStep { s with paceSleepUs := sleep } t len) := by
  rcases Bool.eq_false_or_eq_true s.dlyActive with ha | ha
  · rw [delayStep_running (s := { s with paceSleepUs := sleep }) t len ha]
    split
    · exact .complete [] (hw s.dlyT0 s.dlyLen) hi
    · have hstep := OpStep.holds (s := s) [] (.delay i s.dlyT0 s.dlyLen sleep)
      rwa [← ha] at hstep
  · rw [delayStep_first (s := { s with paceSleepUs := sleep }) t len ha]
    split
    · exact .complete [] (hw t len) hi
    · exact .holds [] (.delay i t len sleep)

theorem execPresent_opStep {s t : State} (h : execPresent s = .next t) : OpStep .present s t := by
  unfold execPresent at h
  obtain rfl := Host.Outcome.next.inj h
  refine .need fun _ => .need fun _ => .answered ?_
  dsimp only
  split
  · exact .complete [.dispPresent (s.fb.readRange 0 fbBytes) true] .presented rfl
  · exact .faults _ _

theorem execBlOn2_opStep {s t : State} (h : execBlOn2 s = .next t) : OpStep .blOn2 s t := by
  unfold execBlOn2 at h
  obtain rfl := Host.Outcome.next.inj h
  split
  · exact .answered (.complete [.dispBacklight true] (.backlight true) rfl)
  · exact .complete [] (.backlight s.backlight) rfl

theorem execPace_opStep {s t : State} (h : execPace s = .next t) : OpStep .pace s t := by
  unfold execPace at h
  obtain rfl := Host.Outcome.next.inj h
  split
  · exact delayStep_opStep s.paceSleepUs s.now 0 (fun t₀ len => .paced t₀ len _) rfl
  · exact .need fun _ => .need fun _ => delayStep_opStep _ _ _ (fun t₀ len => .paced t₀ len _) rfl

/-- Everything a step of an op can do, write by write. -/
theorem exec_opStep {i : Instr} {s t : State} (h : exec i s = .next t) : OpStep i s t := by
  cases i with
  | spdS =>
    obtain rfl := Host.Outcome.next.inj h
    exact .setSpeed .spdS rfl
  | spdD =>
    obtain rfl := Host.Outcome.next.inj h
    exact .setSpeed .spdD rfl
  | select => exact execSelect_opStep h
  | hdrRd => exact execHdrRd_opStep h
  | hdrDec => exact execHdrDec_opStep h
  | hdrAcc => exact execHdrAcc_opStep h
  | rateQ =>
    obtain rfl := Host.Outcome.next.inj h
    exact .need fun _ => .complete [] (.rate _ _ _) rfl
  | hint =>
    obtain rfl := Host.Outcome.next.inj h
    exact .need fun _ => .need fun _ => .complete [] (.hint _) rfl
  | load => exact execLoad_opStep h
  | loopchk => exact execLoopchk_opStep h
  | iterBegin =>
    obtain rfl := Host.Outcome.next.inj h
    exact .complete [] (.iteration _ _) rfl
  | teRise =>
    obtain rfl := Host.Outcome.next.inj h
    exact teWait_opStep true (.rose _) rfl
  | teFall =>
    obtain rfl := Host.Outcome.next.inj h
    exact teWait_opStep false (.fell _) rfl
  | settle =>
    obtain rfl := Host.Outcome.next.inj h
    exact delayStep_opStep s.paceSleepUs s.now _ (fun t₀ len => .settled t₀ len _) rfl
  | present => exact execPresent_opStep h
  | blOn2 => exact execBlOn2_opStep h
  | pace => exact execPace_opStep h
  | jmp k =>
    obtain rfl := Host.Outcome.next.inj h
    exact .completes [] (.jumped k)

end Sys2Proof.Machine

namespace Sys2Proof.Machine

open Sys2Proof

/-! ### The invariant of the ROM, step by step -/

theorem State.RomInv.emitAll {s : State} (h : s.RomInv) (es : List Event) : (s.emitAll es).RomInv :=
  { h with inv := { h.inv with } }

/-- The op at an address of the ROM is the one its word decodes to. -/
theorem State.RomInv.op_eq {s : State} {i : Instr} (h : s.RomInv) (hi : Machine.runs s i) :
    i = normativeOps.getD s.upc.toNat .load :=
  Decoded.op.inj (hi.symm.trans h.runs)

/-- The ROM holds LOAD at addresses 8 and 18 (42_boot.md R300). -/
theorem State.RomInv.eq_load_iff {s : State} {i : Instr} (h : s.RomInv)
    (hop : i = normativeOps.getD s.upc.toNat .load) : i = .load ↔ s.upc.toNat = 8 ∨ s.upc.toNat = 18 := by
  have hops : ∀ n ≤ 21, normativeOps.getD n .load = .load ↔ n = 8 ∨ n = 18 := by decide
  exact hop ▸ hops _ h.upcLe

theorem Routine.frameBytes_le (r : Routine) : r.frameBytes ≤ fbBytes := by cases r <;> decide

/-- A batch moves the cursor to the next batch of the frame: the 64 bits of the cursor do not wrap (41_loader.md
R252). -/
theorem State.RomInv.cursor_advance {s : State} {r : Routine} (h : s.RomInv) (hh : s.halted = false)
    (hu : 8 ≤ s.upc.toNat) (hr : routineOf s.hdrSize = some r) :
    (s.cursor + BitVec.ofNat 64 r.batchBytes).toNat =
      8 + s.fss.toNat * r.frameBytes + (s.bidx.toNat + 1) * r.batchBytes := by
  have hcursor := h.cursorAt hh hu r hr
  have hframes : s.fss.toNat * r.frameBytes ≤ 65535 * 115200 :=
    Nat.mul_le_mul (Nat.le_of_lt_succ s.fss.isLt) r.frameBytes_le
  have hbatches : (s.bidx.toNat + 1) * r.batchBytes ≤ 32 * 4096 := Nat.mul_le_mul s.bidx.isLt r.batchBytes_le
  rw [Nat.succ_mul] at hbatches ⊢
  rw [BitVec.toNat_add, BitVec.toNat_ofNat]
  omega

theorem toNat_bidx_succ {b : BitVec 5} {r : Routine} (hb : b.toNat + 1 < r.batches) :
    (b + 1).toNat = b.toNat + 1 := by
  have := r.batches_le
  bv_omega

/-- A step that holds leaves what its address finds, a batch of LOAD with the cursor moved on. -/
theorem HoldsWith.romInv {i : Instr} {s u : State} (hw : HoldsWith s i u) (h : s.RomInv) (hh : s.halted = false)
    (hop : i = normativeOps.getD s.upc.toNat .load) (hinv : (stay u).Inv) : (stay u).RomInv := by
  cases hw with
  | unanswered | sampled | delay => exact { h with inv := hinv }
  | @batch r bytes hr hread hl hb =>
    have hu : s.upc.toNat = 8 ∨ s.upc.toNat = 18 := (h.eq_load_iff hop).1 rfl
    have hpast : 8 ≤ s.upc.toNat := by omega
    refine
      { h with
        inv := hinv
        opened := fun _ _ hu => absurd (hpast.trans hu) (by decide)
        behindHeader := fun _ _ hu => absurd (hpast.trans hu) (by decide)
        cursorAt := fun _ hu r' hr' => ?_ }
    obtain rfl := Option.some.inj (hr.symm.trans hr')
    refine (h.cursor_advance hh hu hr).trans ?_
    rw [← toNat_bidx_succ hb]
    rfl

section

variable {i : Instr} {s u : State} (hw : CompletesWith s i u)
include hw

/-! What an op that completes leaves as it was. -/

theorem CompletesWith.rom_eq : u.rom = s.rom := by cases hw <;> rfl

/-- No op that completes takes back a validity bit. -/
theorem CompletesWith.keeps_valid :
    (s.streamOpen = true → u.streamOpen = true) ∧ (s.hbufValid = true → u.hbufValid = true) ∧
      (s.hdrValid = true → u.hdrValid = true) ∧ (s.rateValid = true → u.rateValid = true) ∧
      (s.fbValid = true → u.fbValid = true) ∧ (s.tsValid = true → u.tsValid = true) := by
  cases hw <;> simp

theorem CompletesWith.busMode_eq (hi : i ∉ [Instr.spdS, .spdD]) : u.busMode = s.busMode := by
  cases hw with
  | spdS | spdD => simp at hi
  | _ => rfl

theorem CompletesWith.sameHeaderRegs (hi : i ≠ .hdrDec) : SameHeaderRegs s u := by
  cases hw with
  | header => simp at hi
  | _ => exact ⟨rfl, rfl, rfl, rfl, rfl, rfl⟩

theorem CompletesWith.sameStream (hi : i ∉ [Instr.select, .hdrRd, .load, .loopchk]) : SameStream s u := by
  cases hw with
  | opened | headerBytes | lastBatch | rewound | notYet => simp at hi
  | _ => exact ⟨rfl, rfl, rfl, rfl, rfl⟩

theorem CompletesWith.sameLoader (hi : i ≠ .load) : u.bidx = s.bidx ∧ u.fbValid = s.fbValid ∧ u.fb = s.fb := by
  cases hw with
  | lastBatch => simp at hi
  | _ => exact ⟨rfl, rfl, rfl⟩

end

theorem op_at {i : Instr} {u n : Nat} (hop : i = normativeOps.getD u .load) (hn : u = n) :
    i = normativeOps.getD n .load := hn ▸ hop

/-- What an op establishes and no later one takes back holds from the address after it on. -/
theorem established {P Q : Prop} {n k : Nat} (hset : n = k → Q) (hkeep : P → Q) (hs : k + 1 ≤ n → P) (hn : k ≤ n) :
    Q := by
  rcases Nat.eq_or_lt_of_le hn with he | hlt
  · exact hset he.symm
  · exact hkeep (hs hlt)

/-- The address after one of the ROM's is the next one, but for the jump back at the end (42_boot.md R300). -/
theorem toNat_nextUpc {u : Addr} {i : Instr} (hu : u.toNat ≤ 21) (hop : i = normativeOps.getD u.toNat .load) :
    u.toNat ≤ 20 ∧ (nextUpc u i).toNat = u.toNat + 1 ∨ u.toNat = 21 ∧ (nextUpc u i).toNat = 9 := by
  have hall : ∀ v : Addr, v.toNat ≤ 20 → (nextUpc v (normativeOps.getD v.toNat .load)).toNat = v.toNat + 1 := by
    decide
  rcases Nat.lt_or_ge 20 u.toNat with hgt | hle
  · have h21 : u.toNat = 21 := by omega
    rw [h21] at hop
    subst hop
    exact .inr ⟨h21, rfl⟩
  · exact .inl ⟨hle, hop ▸ hall u hle⟩

theorem State.RomInv.upc_completeAt {s : State} {i : Instr} (h : s.RomInv)
    (hop : i = normativeOps.getD s.upc.toNat .load) (u : State) :
    s.upc.toNat ≤ 20 ∧ (completeAt u (nextUpc s.upc i)).upc.toNat = s.upc.toNat + 1 ∨
      s.upc.toNat = 21 ∧ (completeAt u (nextUpc s.upc i)).upc.toNat = 9 :=
  toNat_nextUpc h.upcLe hop

section

variable {i : Instr} {s u : State} (hw : CompletesWith s i u) (h : s.RomInv) (hh : s.halted = false)
  (hop : i = normativeOps.getD s.upc.toNat .load)
include hw h hh hop

/-! What the address after `s.upc` finds: what the op at `s.upc` has established, or what its own address found. -/

theorem CompletesWith.finds_storage
    (hn : s.upc.toNat ≤ 7 ∨ 16 ≤ s.upc.toNat ∧ s.upc.toNat ≤ 18) : u.busMode = .storage := by
  by_cases hspd : s.upc.toNat ∈ [0, 2, 16]
  · have hops : ∀ n ∈ [0, 2, 16], normativeOps.getD n .load = .spdS := by decide
    obtain rfl : i = .spdS := hop.trans (hops _ hspd)
    cases hw
    rfl
  · simp only [List.mem_cons, List.not_mem_nil, or_false, not_or] at hspd
    have hops : ∀ n ≤ 18, n ∉ [0, 2, 13, 16] → normativeOps.getD n .load ∉ [Instr.spdS, .spdD] := by decide
    rw [hw.busMode_eq (hop ▸ hops _ (by omega) (by simp; omega))]
    exact h.storage hh (by omega)

theorem CompletesWith.finds_display
    (hn : 13 ≤ s.upc.toNat ∧ s.upc.toNat ≤ 15 ∨ 19 ≤ s.upc.toNat ∧ s.upc.toNat ≤ 20) : u.busMode = .display := by
  by_cases hspd : s.upc.toNat ∈ [13, 19]
  · have hops : ∀ n ∈ [13, 19], normativeOps.getD n .load = .spdD := by decide
    obtain rfl : i = .spdD := hop.trans (hops _ hspd)
    cases hw
    rfl
  · simp only [List.mem_cons, List.not_mem_nil, or_false, not_or] at hspd
    have hops : ∀ n ∈ [14, 15, 20], normativeOps.getD n .load ∉ [Instr.spdS, .spdD] := by decide
    rw [hw.busMode_eq (hop ▸ hops _ (by simp; omega))]
    exact h.display hh (by omega)

omit hh in
/-- At an address without SELECT, HDR.RD, LOAD and LOOPCHK the stream stays where it is. -/
theorem CompletesWith.sameStream_at (hn : s.upc.toNat ∉ [1, 3, 8, 17, 18]) : SameStream s u := by
  have hops : ∀ n ≤ 21, n ∉ [1, 3, 8, 17, 18] →
      normativeOps.getD n .load ∉ [Instr.select, .hdrRd, .load, .loopchk] := by decide
  exact hw.sameStream (hop ▸ hops _ h.upcLe hn)

omit hh in
/-- Past HDR.DEC the header registers stay as they are. -/
theorem CompletesWith.sameHeaderRegs_at (hn : 5 ≤ s.upc.toNat) : SameHeaderRegs s u := by
  have hops : ∀ n ≤ 21, 5 ≤ n → normativeOps.getD n .load ≠ .hdrDec := by decide
  exact hw.sameHeaderRegs (hop ▸ hops _ h.upcLe hn)

theorem CompletesWith.finds_accepted (hn : 5 ≤ s.upc.toNat) : u.hdrEncoding = 1 ∧ u.hdrCount ≠ 0 := by
  rcases Nat.eq_or_lt_of_le hn with h5 | hlt
  · obtain rfl : i = .hdrAcc := op_at hop h5.symm
    cases hw with
    | accepted henc hcount => exact ⟨henc, hcount⟩
  · obtain ⟨-, -, henc, -, -, hcount⟩ := hw.sameHeaderRegs_at h hop hn
    rw [henc, hcount]
    exact h.accepted hh hlt

theorem CompletesWith.finds_opened (hn : 1 ≤ s.upc.toNat) (hle : s.upc.toNat ≤ 2) : u.cursor = 0 := by
  rcases Nat.eq_or_lt_of_le hn with h1 | hlt
  · obtain rfl : i = .select := op_at hop h1.symm
    cases hw
    rfl
  · obtain ⟨-, -, hcursor, -, -⟩ := hw.sameStream_at h hop (by simp; omega)
    exact hcursor.trans (h.opened hh hlt (by omega))

theorem CompletesWith.finds_behindHeader (hn : 3 ≤ s.upc.toNat) (hle : s.upc.toNat ≤ 6) : u.cursor = 8 := by
  rcases Nat.eq_or_lt_of_le hn with h3 | hlt
  · obtain rfl : i = .hdrRd := op_at hop h3.symm
    cases hw
    exact congrArg (· + 8) (h.opened hh (by omega) (by omega))
  · obtain ⟨-, -, hcursor, -, -⟩ := hw.sameStream_at h hop (by simp; omega)
    exact hcursor.trans (h.behindHeader hh hlt (by omega))

theorem CompletesWith.finds_unloaded (hn : 1 ≤ s.upc.toNat) (hle : s.upc.toNat ≤ 7) : u.fss = 0 := by
  rcases Nat.eq_or_lt_of_le hn with h1 | hlt
  · obtain rfl : i = .select := op_at hop h1.symm
    cases hw
    rfl
  · have hfss : u.fss = s.fss := by
      by_cases h3 : s.upc.toNat = 3
      · obtain rfl : i = .hdrRd := op_at hop h3
        cases hw
        rfl
      · obtain ⟨-, -, -, hfss, -⟩ := hw.sameStream_at h hop (by simp; omega)
        exact hfss
    exact hfss.trans (h.unloaded hh hlt (by omega))

/-- A LOAD that completes has read one frame more, which the header still counts. -/
theorem CompletesWith.toNat_fss_load (hn : s.upc.toNat = 8 ∨ s.upc.toNat = 18) :
    u.fss.toNat = s.fss.toNat + 1 := by
  have hlt := h.fss_lt_hdrCount hh hn
  obtain rfl : i = .load := (h.eq_load_iff hop).2 hn
  cases hw
  show (s.fss + 1).toNat = _
  bv_omega

theorem CompletesWith.finds_counted (hn : 8 ≤ s.upc.toNat ∧ s.upc.toNat ≤ 16 ∨ 18 ≤ s.upc.toNat) :
    1 ≤ u.fss.toNat ∧ u.fss.toNat ≤ u.hdrCount.toNat := by
  obtain ⟨-, -, -, -, -, hcount⟩ := hw.sameHeaderRegs_at h hop (by omega)
  rw [hcount]
  by_cases hload : s.upc.toNat = 8 ∨ s.upc.toNat = 18
  · rw [hw.toNat_fss_load h hh hop hload]
    exact ⟨Nat.le_add_left _ _, h.fss_lt_hdrCount hh hload⟩
  · obtain ⟨-, -, -, hfss, -⟩ := hw.sameStream_at h hop (by simp; omega)
    rw [hfss]
    exact h.counted hh (by omega)

/-- LOOPCHK lets only a frame that the header counts be loaded next (41_loader.md R265). -/
theorem CompletesWith.finds_beforeLast (hn : s.upc.toNat = 17) : u.fss.toNat < u.hdrCount.toNat := by
  obtain ⟨-, hcount⟩ := h.accepted hh (by omega)
  obtain ⟨-, hle⟩ := h.counted hh (by omega)
  obtain rfl : i = .loopchk := op_at hop hn
  cases hw with
  | rewound => exact Nat.pos_of_ne_zero fun h0 => hcount (BitVec.eq_of_toNat_eq h0)
  | notYet hne => exact Nat.lt_of_le_of_ne hle fun he => hne (BitVec.eq_of_toNat_eq he)

omit hh in
theorem CompletesWith.finds_bidx (hi : Machine.runs s i) : u.bidx = 0 := by
  by_cases hl : i = .load
  · subst hl
    cases hw
    rfl
  · obtain ⟨hb, -⟩ := hw.sameLoader hl
    exact hb.trans (h.inv.bidx_eq_zero hi hl)

/-- The cursor stands at the frame that `fss` counts: HINT leaves it behind the header, a LOAD at the next frame,
LOOPCHK where it is or at the first frame (41_loader.md R252, R265). -/
theorem CompletesWith.finds_cursorAt (hi : Machine.runs s i) (hn : 7 ≤ s.upc.toNat) {r : Routine}
    (hr : routineOf u.hdrSize = some r) :
    u.cursor.toNat = 8 + u.fss.toNat * r.frameBytes + u.bidx.toNat * r.batchBytes := by
  have hb := hw.finds_bidx h hop hi
  obtain ⟨-, -, -, hsize, -, -⟩ := hw.sameHeaderRegs_at h hop (by omega)
  rw [hsize] at hr
  rw [hb]
  by_cases hload : s.upc.toNat = 8 ∨ s.upc.toNat = 18
  · have hfss := hw.toNat_fss_load h hh hop hload
    have hcursor := h.cursor_advance hh (by omega) hr
    obtain rfl : i = .load := (h.eq_load_iff hop).2 hload
    cases hw with
    | lastBatch hr' hread hl hlast =>
      obtain rfl := Option.some.inj (hr.symm.trans hr')
      rw [hlast, ← r.frameBytes_eq] at hcursor
      rw [hfss, Nat.succ_mul]
      exact hcursor.trans (by simp; omega)
  · have hs : s.cursor.toNat = 8 + s.fss.toNat * r.frameBytes := by
      rcases Nat.eq_or_lt_of_le hn with h7 | hlt
      · rw [h.behindHeader hh (by omega) (by omega), h.unloaded hh (by omega) (by omega)]
        simp
      · have hl : i ≠ .load := mt (h.eq_load_iff hop).1 hload
        have hcursor := h.cursorAt hh hlt r hr
        rw [h.inv.bidx_eq_zero hi hl] at hcursor
        simpa using hcursor
    by_cases h17 : s.upc.toNat = 17
    · obtain rfl : i = .loopchk := op_at hop h17
      cases hw with
      | rewound => simp
      | notYet => simpa using hs
    · obtain ⟨-, -, hcursor, hfss, -⟩ := hw.sameStream_at h hop (by simp; omega)
      rw [hcursor, hfss, hs]
      simp

/-- An op that completes reaches an address that finds what the ROM's invariant says. -/
theorem CompletesWith.romInv (hi : Machine.runs s i) (hinv : (completeAt u (nextUpc s.upc i)).Inv) :
    (completeAt u (nextUpc s.upc i)).RomInv := by
  obtain ⟨kstream, kbytes, kregs, krate, kframe, kstamp⟩ := hw.keeps_valid
  have hnext := h.upc_completeAt hop u
  exact
    { inv := hinv
      rom := hw.rom_eq.trans h.rom
      upcLe := by omega
      storage := fun _ ha => hw.finds_storage h hh hop (by omega)
      display := fun _ ha => hw.finds_display h hh hop (by omega)
      stream := fun _ ha => established (k := 1)
        (fun hn => by obtain rfl : i = .select := op_at hop hn; cases hw; rfl) kstream (h.stream hh) (by omega)
      headerBytes := fun _ ha => established (k := 3)
        (fun hn => by obtain rfl : i = .hdrRd := op_at hop hn; cases hw; rfl) kbytes (h.headerBytes hh) (by omega)
      headerRegs := fun _ ha => established (k := 4)
        (fun hn => by obtain rfl : i = .hdrDec := op_at hop hn; cases hw; rfl) kregs (h.headerRegs hh) (by omega)
      accepted := fun _ ha => hw.finds_accepted h hh hop (by omega)
      rated := fun _ ha => established (k := 6)
        (fun hn => by obtain rfl : i = .rateQ := op_at hop hn; cases hw; rfl) krate (h.rated hh) (by omega)
      primed := fun _ ha => established (k := 8)
        (fun hn => by obtain rfl : i = .load := op_at hop hn; cases hw; rfl) kframe (h.primed hh) (by omega)
      stamped := fun _ ha => established (k := 9)
        (fun hn => by obtain rfl : i = .iterBegin := op_at hop hn; cases hw; rfl) kstamp (h.stamped hh) (by omega)
      opened := fun _ ha hle => hw.finds_opened h hh hop (by omega) (by omega)
      behindHeader := fun _ ha hle => hw.finds_behindHeader h hh hop (by omega) (by omega)
      unloaded := fun _ ha hle => hw.finds_unloaded h hh hop (by omega) (by omega)
      counted := fun _ ha => hw.finds_counted h hh hop (by omega)
      beforeLast := fun _ ha => hw.finds_beforeLast h hh hop (by omega)
      cursorAt := fun _ ha r hr => hw.finds_cursorAt h hh hop hi (by omega) hr }

end

/-- A state that is halted, or at address 0, finds nothing that the ROM's invariant speaks of beside the invariant of
every step. -/
theorem State.Inv.romInv {t : State} (hinv : t.Inv) (hrom : t.rom = normativeRom)
    (hpark : t.halted = true ∧ t.upc.toNat ≤ 21 ∨ t.upc.toNat = 0) : t.RomInv := by
  have hzero : t.halted = false → t.upc.toNat = 0 := fun hh =>
    hpark.resolve_left fun ⟨hh', _⟩ => absurd (hh'.symm.trans hh) (by decide)
  constructor
  case inv => exact hinv
  case rom => exact hrom
  case upcLe => omega
  all_goals
    intro hh
    have := hzero hh
    omega

end Sys2Proof.Machine

namespace Sys2Proof.Machine

open Sys2Proof

theorem raise_parked {s : State} (hle : s.upc.toNat ≤ 21) (c : FatalCode) (info : Word32) :
    (raise s c info).halted = true ∧ (raise s c info).upc.toNat ≤ 21 ∨ (raise s c info).upc.toNat = 0 := by
  cases ha : s.par.fatalAction with
  | halt =>
    rw [raise_halt ha]
    exact .inl ⟨rfl, hle⟩
  | reset =>
    rw [raise_reset ha]
    exact .inr rfl

/-- What a step of the ROM can do: halt or reset the block, hold at its op, or complete it. -/
theorem State.RomInv.step_cases {s t : State} (h : s.RomInv) (hstep : step s = .next t) :
    (t.halted = true ∧ t.upc.toNat ≤ 21 ∨ t.upc.toNat = 0) ∨
    (s.halted = false ∧ ∃ i es u, Machine.runs s i ∧ HoldsWith (s.emitAll es) i u ∧ t = stay u) ∨
    (s.halted = false ∧ ∃ i es u, Machine.runs s i ∧ CompletesWith (s.emitAll es) i u ∧
      t = completeAt u (nextUpc s.upc i)) := by
  rcases Machine.step_cases s with ⟨-, hx⟩ | ⟨-, -, hx⟩ | ⟨w, -, -, -, hx⟩ | ⟨i, -, hh, hi, hx⟩ <;> rw [hx] at hstep
  · obtain rfl := Host.Outcome.next.inj hstep
    exact .inl (.inr rfl)
  · cases hstep
  · obtain rfl := Host.Outcome.next.inj hstep
    exact .inl (raise_parked h.upcLe _ _)
  · cases exec_opStep hstep with
    | holds es hw => exact .inr (.inl ⟨hh, i, es, _, hi, hw, rfl⟩)
    | completes es hw => exact .inr (.inr ⟨hh, i, es, _, hi, hw, rfl⟩)
    | faults c info hu => exact .inl (raise_parked (hu ▸ h.upcLe) c info)

/-- Every step keeps the invariant of the ROM. -/
theorem State.RomInv.step {s t : State} (h : s.RomInv) (hstep : step s = .next t) : t.RomInv := by
  have hinv : t.Inv := everyStepKeepsTheInvariant s t h.inv hstep
  rcases h.step_cases hstep with hpark | ⟨hh, i, es, u, hi, hw, rfl⟩ | ⟨hh, i, es, u, hi, hw, rfl⟩
  · exact hinv.romInv ((step_passes hstep).rom.trans h.rom) hpark
  · exact hw.romInv (h.emitAll es) hh (h.op_eq hi) hinv
  · exact hw.romInv (h.emitAll es) hh (h.op_eq hi) hi hinv

/-! ### What FB shows -/

theorem showsRows_congr {s t : State} {r : Routine} {off rows : Nat} (hfb : t.fb = s.fb) (hfile : t.file = s.file)
    (h : showsRows s r off rows) : showsRows t r off rows := by
  unfold showsRows
  rwa [hfb, hfile]

theorem Routine.scale_pos (r : Routine) : 0 < r.scale := by cases r <;> decide

/-- The source byte of FB byte `j` of pixel (x, y), by its coordinates (41_loader.md R255, R256). -/
theorem blitSource_pixelAddr {side rows scale b x y j : Nat} (hx : x < 240) (hj : j < 2) :
    blitSource side rows scale b (pixelAddr x y j) =
      2 * ((y - rows * scale * b) / scale * side + x / scale) + j := by
  have hcol : pixelAddr x y j / 2 % 240 = x := by unfold pixelAddr; omega
  have hrow : pixelAddr x y j / 2 / 240 = y := by unfold pixelAddr; omega
  have hbyte : pixelAddr x y j % 2 = j := by unfold pixelAddr; omega
  unfold blitSource
  dsimp only
  rw [hcol, hrow, hbyte]

/-- The source byte of a pixel of batch `b` is `b` whole batches into the frame (41_loader.md R252, R260). -/
theorem sourceOffset_eq {r : Routine} {b x y j : Nat} (hx : x < 240) (hj : j < 2) (hy : b * (r.rows * r.scale) ≤ y) :
    sourceOffset r x y j = b * r.batchBytes + blitSource r.side r.rows r.scale b (pixelAddr x y j) := by
  have hlocal : (y - r.rows * r.scale * b) / r.scale = y / r.scale - b * r.rows := by
    rw [show r.rows * r.scale * b = r.scale * (b * r.rows) by ring, Nat.sub_mul_div]
  have hge : b * r.rows ≤ y / r.scale := by
    rwa [Nat.le_div_iff_mul_le r.scale_pos, Nat.mul_assoc]
  have hrows : b * r.rows * r.side ≤ y / r.scale * r.side := Nat.mul_le_mul_right _ hge
  have hbatch : b * (r.rows * r.side * 2) = 2 * (b * r.rows * r.side) := by ring
  rw [blitSource_pixelAddr hx hj, hlocal, Nat.sub_mul]
  unfold sourceOffset Routine.batchBytes
  omega

/-- The addresses of the rows below `n` are the first `480 * n` bytes of FB (20_memory.md R81). -/
theorem pixelAddr_lt_iff {x y j n : Nat} (hx : x < 240) (hj : j < 2) : pixelAddr x y j < n * 480 ↔ y < n := by
  unfold pixelAddr
  omega

/-- One batch more: the rows of batch `b` show the frame if their bytes are the nearest source bytes of the batch, and
the rows below it as before (41_loader.md R260, R261). -/
theorem showsRows_succ {s t : State} {r : Routine} {off b : Nat} (hfile : t.file = s.file)
    (hs : showsRows s r off (b * (r.rows * r.scale)))
    (hin : ∀ a, b * r.fbBatchBytes ≤ a → a < (b + 1) * r.fbBatchBytes →
      Memory.read t.fb a = s.file[off + b * r.batchBytes + blitSource r.side r.rows r.scale b a]?)
    (hout : ∀ a, a < b * r.fbBatchBytes → Memory.read t.fb a = Memory.read s.fb a) :
    showsRows t r off ((b + 1) * (r.rows * r.scale)) := by
  intro x y j hx hy hj
  have hbytes (n : Nat) : n * r.fbBatchBytes = n * (r.rows * r.scale) * 480 := (Nat.mul_assoc _ _ _).symm
  rw [hfile]
  rcases Nat.lt_or_ge y (b * (r.rows * r.scale)) with hlt | hge
  · rw [hout _ (hbytes b ▸ (pixelAddr_lt_iff hx hj).2 hlt)]
    exact hs x y j hx hlt hj
  · have hlow : b * r.fbBatchBytes ≤ pixelAddr x y j :=
      Nat.le_of_not_lt fun hlt => Nat.not_lt.2 hge ((pixelAddr_lt_iff hx hj).1 (hbytes b ▸ hlt))
    have hhigh : pixelAddr x y j < (b + 1) * r.fbBatchBytes := hbytes (b + 1) ▸ (pixelAddr_lt_iff hx hj).2 hy
    rw [hin _ hlow hhigh, sourceOffset_eq hx hj hge, Nat.add_assoc]

/-- The batches of a frame cover the 240 rows of FB (41_loader.md R251). -/
theorem Routine.batches_mul_rows (r : Routine) : r.batches * (r.rows * r.scale) = 240 := by cases r <;> rfl

theorem Routine.fbBatchBytes_succ (r : Routine) (b : Nat) :
    (b + 1) * r.fbBatchBytes = b * r.fbBatchBytes + r.fbBatchBytes := Nat.succ_mul _ _

/-- A whole batch of the LOAD in progress shows its rows of frame `fss` (41_loader.md R254, R266). -/
theorem State.ShowInv.shows_batch {s t : State} {r : Routine} {bytes : List Byte} (h : s.ShowInv)
    (hh : s.halted = false) (hu : s.upc.toNat = 8 ∨ s.upc.toNat = 18) (hr : routineOf s.hdrSize = some r)
    (hread : streamRead s r.batchBytes = some bytes) (hl : bytes.length = r.batchBytes) (hfile : t.file = s.file)
    (hfb : t.fb = blit r s.bidx.toNat s.fb (s.sb.writeBytes 0 bytes)) :
    showsRows t r (8 + s.fss.toNat * r.frameBytes) ((s.bidx.toNat + 1) * (r.rows * r.scale)) := by
  obtain ⟨hfbWf, hsbWf⟩ : Memory.wf fbBytes s.fb = true ∧ Memory.wf sbBytes s.sb = true :=
    ⟨h.romInv.inv.fbWf, h.romInv.inv.sbWf⟩
  refine showsRows_succ hfile (h.partly hh hu r hr) (fun a hge hlt => ?_) fun a hlt => ?_
  · rw [hfb, read_blit_batch hread hl hsbWf hfbWf, if_pos ⟨hge, r.fbBatchBytes_succ _ ▸ hlt⟩,
      h.romInv.cursorAt hh (by omega) r hr]
  · rw [hfb, read_blit_batch hread hl hsbWf hfbWf, if_neg (by omega)]

theorem State.ShowInv.emitAll {s : State} (h : s.ShowInv) (es : List Event) : (s.emitAll es).ShowInv :=
  { h with romInv := h.romInv.emitAll es }

theorem HoldsWith.showInv {i : Instr} {s u : State} (hw : HoldsWith s i u) (h : s.ShowInv) (hh : s.halted = false)
    (hop : i = normativeOps.getD s.upc.toNat .load) (ht : (stay u).RomInv) : (stay u).ShowInv := by
  cases hw with
  | unanswered | sampled | delay => exact { h with romInv := ht }
  | @batch r bytes hr hread hl hb =>
    have hu := (h.romInv.eq_load_iff hop).1 rfl
    refine ⟨ht, fun _ ha => ?_, fun _ _ r' hr' => ?_⟩
    · simp only [stay_upc] at ha
      omega
    · obtain rfl := Option.some.inj (hr.symm.trans hr')
      rw [stay_bidx, toNat_bidx_succ hb]
      exact h.shows_batch hh hu hr hread hl rfl rfl

/-- An op other than LOAD keeps what FB shows, and comes to a LOAD with no batch done. -/
theorem CompletesWith.showInv_other {i : Instr} {s u : State} (hw : CompletesWith s i u) (h : s.ShowInv)
    (hh : s.halted = false) (hi : Machine.runs s i) (hl : i ≠ .load)
    (ht : (completeAt u (nextUpc s.upc i)).RomInv) : (completeAt u (nextUpc s.upc i)).ShowInv := by
  have hop := h.romInv.op_eq hi
  have hnext := h.romInv.upc_completeAt hop u
  have hn : ¬(s.upc.toNat = 8 ∨ s.upc.toNat = 18) := mt (h.romInv.eq_load_iff hop).2 hl
  refine ⟨ht, fun _ ha r hr => ?_, fun _ ha r hr x y j hx hy => ?_⟩
  · obtain ⟨-, -, -, hfss, hfile⟩ := hw.sameStream_at h.romInv hop (by simp; omega)
    obtain ⟨-, -, -, hsize, -, -⟩ := hw.sameHeaderRegs_at h.romInv hop (by omega)
    obtain ⟨-, -, hfb⟩ := hw.sameLoader hl
    have hshow := h.shown hh (by omega) r (hsize ▸ hr)
    rw [← hfss] at hshow
    exact showsRows_congr hfb hfile hshow
  · have hb : u.bidx = 0 := hw.finds_bidx h.romInv hop hi
    simp [hb] at hy

/-- A LOAD that completes shows the whole of frame `fss`, the frame before the new count (41_loader.md R266). -/
theorem CompletesWith.showInv_load {s u : State} (hw : CompletesWith s .load u) (h : s.ShowInv)
    (hh : s.halted = false) (hi : Machine.runs s .load) (ht : (completeAt u (nextUpc s.upc .load)).RomInv) :
    (completeAt u (nextUpc s.upc .load)).ShowInv := by
  have hop := h.romInv.op_eq hi
  have hu := (h.romInv.eq_load_iff hop).1 rfl
  have hfss := hw.toNat_fss_load h.romInv hh hop hu
  have hnext := h.romInv.upc_completeAt hop u
  refine ⟨ht, fun _ _ r' hr' => ?_, fun _ ha => by omega⟩
  cases hw with
  | @lastBatch r bytes hr hread hl hlast =>
    obtain rfl := Option.some.inj (hr.symm.trans hr')
    rw [completeAt_fss, hfss, Nat.add_sub_cancel, ← r.batches_mul_rows, ← hlast]
    exact h.shows_batch hh hu hr hread hl rfl rfl

/-- Every step keeps what FB shows. -/
theorem State.ShowInv.step {s t : State} (h : s.ShowInv) (hstep : step s = .next t) : t.ShowInv := by
  have ht : t.RomInv := h.romInv.step hstep
  rcases h.romInv.step_cases hstep with hpark | ⟨hh, i, es, u, hi, hw, rfl⟩ | ⟨hh, i, es, u, hi, hw, rfl⟩
  · refine ⟨ht, fun hh ha => ?_, fun hh ha => ?_⟩ <;>
    · simp only [hh, Bool.false_eq_true, false_and, false_or] at hpark
      omega
  · exact hw.showInv (h.emitAll es) hh (h.romInv.op_eq hi) ht
  · by_cases hl : i = .load
    · subst hl
      exact hw.showInv_load (h.emitAll es) hh hi ht
    · exact hw.showInv_other (h.emitAll es) hh hi hl ht

/-! ### The frame that PRESENT sends -/

theorem exec_present {s : State} (hmode : s.busMode = .display) (hvalid : s.fbValid = true)
    (ha : s.draw.answers = true) (hp : s.draw.presents = true) :
    exec .present s = .next (complete (s.emit (.dispPresent (s.fb.readRange 0 fbBytes) true))) := by
  simp only [exec, execPresent, need_pos (decide_eq_true hmode), need_pos hvalid, answered_yes ha, hp, if_true]

/-- Settles O51: every step keeps what FB shows, by what a step of the ROM can do; at PRESENT that is frame `fss − 1`,
whole, and PRESENT sends FB byte by byte. -/
theorem playLoopPresentsTheCountedFrame : Obligations.PlayLoopPresentsTheCountedFrame := by
  refine ⟨fun s t h hstep => h.step hstep, fun s h hh hu hreset ha hp => ?_⟩
  have hrom := h.romInv
  have hi : runs s .present := by
    have hrun := hrom.runs
    rwa [hu] at hrun
  have hx := exec_present (hrom.display hh (by omega)) (hrom.primed hh (by omega)) ha hp
  obtain ⟨-, -, r, hr, -, -⟩ := hrom.inv.header (hrom.headerRegs hh (by omega))
  obtain ⟨hpos, hle⟩ := hrom.counted hh (by omega)
  refine ⟨_, _, r, (step_of_runs hreset hh hi).trans hx, rfl, hr, hpos, hle, Memory.length_readRange _ _ _, ?_⟩
  intro x y j hx hy hj
  have haddr : pixelAddr x y j < fbBytes := (pixelAddr_lt_iff hx hj).2 hy
  rw [Memory.getElem?_readRange, if_pos haddr, Nat.zero_add, h.shown hh (by omega) r hr x y j hx hy hj]

end Sys2Proof.Machine

namespace Sys2Proof.Machine

open Sys2Proof

/-! ### The blits, pixel by pixel -/

/-- A replicating blit puts each source pixel at its whole block (41_loader.md R255, R256). -/
theorem read_replicate_pixel {side rows scale b lr sx dy dx j : Nat} {fb : Memory} (sb : Memory)
    (hs : side * scale = 240) (hfb : Memory.wf fbBytes fb = true) (hlr : lr < rows) (hsx : sx < side) (hdy : dy < scale)
    (hdx : dx < scale) (hj : j < 2) :
    Memory.read (replicate side rows scale b fb sb)
        (2 * ((scale * sx + dx) + 240 * (b * rows * scale + lr * scale + dy)) + j) =
      Memory.read sb (2 * (lr * side + sx) + j) := by
  have hscale : 0 < scale := Nat.zero_lt_of_lt hdy
  have hcol : scale * sx + dx < 240 := by
    have hle : scale * (sx + 1) ≤ scale * side := Nat.mul_le_mul_left _ hsx
    rw [Nat.mul_succ, Nat.mul_comm scale side] at hle
    omega
  have hrow : (lr + 1) * scale ≤ rows * scale := Nat.mul_le_mul_right _ hlr
  have hbase : b * rows * scale = rows * scale * b := by ring
  have hsource : blitSource side rows scale b (pixelAddr (scale * sx + dx) (b * rows * scale + lr * scale + dy) j) =
      2 * (lr * side + sx) + j := by
    have hlocal : (b * rows * scale + lr * scale + dy - rows * scale * b) / scale = lr := by
      rw [hbase, Nat.add_assoc, Nat.add_sub_cancel_left, Nat.mul_comm, Nat.mul_add_div hscale, Nat.div_eq_of_lt hdy,
        Nat.add_zero]
    rw [blitSource_pixelAddr hcol hj, hlocal, Nat.mul_add_div hscale, Nat.div_eq_of_lt hdx, Nat.add_zero]
  have haddr : 2 * ((scale * sx + dx) + 240 * (b * rows * scale + lr * scale + dy)) + j =
      pixelAddr (scale * sx + dx) (b * rows * scale + lr * scale + dy) j := by
    rw [pixelAddr, Nat.mul_comm 240]
  rw [Nat.succ_mul] at hrow
  rw [haddr, read_replicate sb hs hfb, if_pos, hsource]
  unfold pixelAddr
  omega

/-- Settles O19: the byte at a pixel of the batch comes from the pixel's coordinates over the scale, which are those of
the source pixel whose block it is in. -/
theorem blitReplicatesEveryPixel : Obligations.BlitReplicatesEveryPixel := by
  refine fun fb sb hfb => ⟨fun b _ => ⟨fun lr sx dy dx j hlr hsx hdy hdx hj => ?_, fun a ha => ?_⟩,
    fun b _ => ⟨fun lr sx dy dx j hlr hsx hdy hdx hj => ?_, fun a ha => ?_⟩⟩
  · exact read_replicate_pixel sb rfl hfb hlr hsx hdy hdx hj
  · exact (read_replicate sb rfl hfb).trans (if_neg (by omega))
  · exact read_replicate_pixel sb rfl hfb hlr hsx hdy hdx hj
  · exact (read_replicate sb rfl hfb).trans (if_neg (by omega))

/-- Settles O20: the size-240 blit copies the batch byte for byte. -/
theorem blitCopiesRowsAtFullSize : Obligations.BlitCopiesRowsAtFullSize := by
  refine fun fb sb hfb b _ => ⟨fun lr k hlr hk => ?_, fun a ha => ?_⟩
  · rw [read_blit240 sb hfb, if_pos (by omega)]
    congr 1
    omega
  · rw [read_blit240 sb hfb, if_neg (by omega)]

/-! ### LOAD's preconditions -/

theorem loadReady_iff {s : State} :
    loadReady s = true ↔ s.busMode = .storage ∧ s.streamOpen = true ∧ s.hdrValid = true ∧ s.hdrEncoding = 1 := by
  simp [loadReady, and_assoc]

theorem execLoad_of_not_ready {s : State} (h : ¬loadReady s = true) : execLoad s = .next (loadRefused s) := by
  rw [execLoad, if_neg h]

/-- Settles O21: `loadRefused` asks the four preconditions in order, and a LOAD that passes them stops or steps by its
routine and its batch. -/
theorem loadChecksItsPreconditions : Obligations.LoadChecksItsPreconditions := by
  intro s
  refine ⟨fun hm => ?_, fun hm ho => ?_, fun hm ho hv => ?_, fun hm ho hv he => ?_, fun hready => ?_, fun f hf => ?_⟩
  · refine (execLoad_of_not_ready (by simp [loadReady_iff, hm])).trans (congrArg _ ?_)
    exact need_neg (decide_eq_false hm) ..
  · refine (execLoad_of_not_ready (by simp [loadReady_iff, ho])).trans (congrArg _ ?_)
    exact (need_pos (decide_eq_true hm) ..).trans (need_neg ho ..)
  · refine (execLoad_of_not_ready (by simp [loadReady_iff, hv])).trans (congrArg _ ?_)
    exact (need_pos (decide_eq_true hm) ..).trans ((need_pos ho ..).trans (need_neg hv ..))
  · refine (execLoad_of_not_ready (by rw [loadReady_iff]; tauto)).trans (congrArg _ ?_)
    exact (need_pos (decide_eq_true hm) ..).trans ((need_pos ho ..).trans (need_pos hv ..))
  · refine ⟨fun hr => ?_, fun r hr hb => ?_, fun r hr hb => ⟨_, execLoad_of_ready hready hr hb⟩⟩
    · simp only [exec, execLoad, hready, hr, if_true]
    · simp only [exec, execLoad, hready, hr, if_true, if_neg (Nat.not_lt.2 hb)]
  · rcases execLoad_cases s with ⟨-, c, info, hx⟩ | ⟨hready, hr, -⟩ | ⟨r, hready, hr, hb, -⟩ | ⟨r, -, -, -, hx⟩
    · cases hx.symm.trans hf
    · exact ⟨hready, .inl hr⟩
    · exact ⟨hready, .inr ⟨r, hr, hb⟩⟩
    · cases hx.symm.trans hf

/-! ### A LOAD step with a whole batch -/

/-- A LOAD that passes its preconditions and reads a whole batch moves it (41_loader.md R254). -/
theorem exec_load_whole {s : State} {r : Routine} {k : Nat} (hready : loadReady s = true)
    (hr : routineOf s.hdrSize = some r) (hb : s.bidx.toNat < r.batches) (ha : s.draw.answers = true)
    (hk : s.draw.read = some k) (hfull : r.batchBytes ≤ k) (hfile : s.cursor.toNat + r.batchBytes ≤ s.file.length) :
    ∃ bytes, streamRead s r.batchBytes = some bytes ∧ bytes.length = r.batchBytes ∧
      exec .load s = .next (loadBatch (s.emit (.streamRead r.batchBytes (some r.batchBytes))) r bytes) := by
  obtain ⟨bytes, hread, hl⟩ := streamRead_full hk hfull hfile
  refine ⟨bytes, hread, hl, (execLoad_of_ready hready hr hb).trans (congrArg _ ?_)⟩
  simp only [loadStep, answered_yes ha, hread, hl, lt_irrefl, if_false]

/-- What the end of a LOAD step leaves, whether it continues or completes. -/
theorem loadAdvance_keeps (s : State) (r : Routine) :
    (loadAdvance s r).cursor = s.cursor ∧ (loadAdvance s r).events = s.events ∧ (loadAdvance s r).sb = s.sb ∧
      (loadAdvance s r).fb = s.fb ∧ SameCodec s (loadAdvance s r) ∧ (loadAdvance s r).busMode = s.busMode ∧
      (loadAdvance s r).streamOpen = s.streamOpen ∧ (loadAdvance s r).selIndex = s.selIndex ∧
      (loadAdvance s r).file = s.file ∧ SamePlay s (loadAdvance s r) ∧ Quiet s (loadAdvance s r) := by
  unfold loadAdvance
  split <;>
    exact ⟨rfl, rfl, rfl, rfl, ⟨⟨rfl, rfl⟩, ⟨rfl, rfl, rfl, rfl, rfl, rfl⟩, ⟨rfl, rfl, rfl, rfl⟩, rfl⟩, rfl, rfl, rfl,
      rfl, ⟨⟨rfl, rfl, rfl⟩, rfl, ⟨rfl, rfl, rfl, rfl⟩, rfl⟩, ⟨rfl, rfl, rfl⟩, ⟨rfl, rfl⟩, rfl, rfl, rfl, rfl⟩

/-- Settles O22: SB and FB after the batch are those of `read_batch` and `read_blit_batch`, and the end of the step
writes the counters alone. -/
theorem loadStepMovesOneBatch : Obligations.LoadStepMovesOneBatch := by
  intro s r k hready hr hb ha hk hfull hfile hfb hsb
  obtain ⟨bytes, hread, hl, hx⟩ := exec_load_whole hready hr hb ha hk hfull hfile
  refine ⟨_, hx, ?_⟩
  obtain ⟨hcursor, hevents, hsb', hfb', hcodec, hmode, hopen, hsel, hfile', hplay, hquiet⟩ :=
    loadAdvance_keeps
      { s.emit (.streamRead r.batchBytes (some r.batchBytes)) with
        sb := s.sb.writeBytes 0 bytes, cursor := s.cursor + BitVec.ofNat 64 r.batchBytes,
        fb := blit r s.bidx.toNat s.fb (s.sb.writeBytes 0 bytes) } r
  refine ⟨hcursor, hevents, fun a hlt => ?_, fun a hge => ?_, fun a hge hlt => ?_, fun a hout => ?_, fun hmore => ?_,
    fun hlast => ?_, hcodec, hmode, hopen, hsel, hfile', hplay, hquiet⟩
  · exact (congrArg (Memory.read · a) hsb').trans ((read_batch hread hl hsb).trans (if_pos hlt))
  · exact (congrArg (Memory.read · a) hsb').trans ((read_batch hread hl hsb).trans (if_neg (Nat.not_lt.2 hge)))
  · rw [r.fbBatchBytes_succ] at hlt
    exact (congrArg (Memory.read · a) hfb').trans ((read_blit_batch hread hl hsb hfb).trans (if_pos ⟨hge, hlt⟩))
  · rw [r.fbBatchBytes_succ] at hout
    exact (congrArg (Memory.read · a) hfb').trans ((read_blit_batch hread hl hsb hfb).trans (if_neg (by omega)))
  · rw [loadBatch_more (s := s.emit _) bytes hmore]
    exact ⟨rfl, rfl, rfl, rfl⟩
  · rw [loadBatch_last (s := s.emit _) bytes (by simp; omega)]
    exact ⟨rfl, rfl, rfl, rfl⟩

/-! ### A LOAD step whose read fails -/

/-- What a failed batch leaves, under Halt: the latch is written, the SB bytes of the batch and the cursor are lost, and
nothing else changes (41_loader.md R263). -/
def LosesBatch (s : State) (r : Routine) (c : FatalCode) (info : Nat) (t : State) : Prop :=
  t.halted = true ∧ t.upc = s.upc ∧ t.faultUpc = s.upc ∧ t.faultCode = c.code ∧ t.faultInfo.toNat = info ∧
    t.bidx = s.bidx ∧ t.fss = s.fss ∧ t.fbValid = s.fbValid ∧ (∀ a, Memory.read t.fb a = Memory.read s.fb a) ∧
    (∀ a, a < r.batchBytes → Memory.read t.sb a = none) ∧
    (∀ a, r.batchBytes ≤ a → Memory.read t.sb a = Memory.read s.sb a) ∧
    SameCodec s t ∧ t.busMode = s.busMode ∧ SamePlay s t ∧ Passed s t ∧ SameFixed s t

theorem raise_loadLost_losesBatch {s : State} {r : Routine} (e : Event) (c : FatalCode) {info : Nat}
    (hhalt : s.par.fatalAction = .halt) (hsb : Memory.wf sbBytes s.sb = true) (hinfo : info ≤ r.batchBytes) :
    LosesBatch s r c info (raise (loadLost (s.emit e) r) c (BitVec.ofNat 32 info)) := by
  have hlost : (loadLost (s.emit e) r).par.fatalAction = .halt := hhalt
  have hsmall : r.batchBytes ≤ 4096 := r.batchBytes_le
  rw [raise_halt hlost]
  refine ⟨rfl, rfl, rfl, rfl, Nat.mod_eq_of_lt (by omega), rfl, rfl, rfl, fun _ => rfl, fun a hlt => ?_,
    fun a hge => ?_, ⟨⟨rfl, rfl⟩, ⟨rfl, rfl, rfl, rfl, rfl, rfl⟩, ⟨rfl, rfl, rfl, rfl⟩, rfl⟩, rfl,
    ⟨⟨rfl, rfl, rfl⟩, rfl, ⟨rfl, rfl, rfl, rfl⟩, rfl⟩, ⟨rfl, rfl, rfl⟩, rfl, rfl⟩
  · exact (Memory.read_forget hsb).trans (if_pos (by omega))
  · exact (Memory.read_forget hsb).trans (if_neg (by omega))

/-- Settles O23: the read answers an error or too few bytes, and either fault leaves what `LosesBatch` says. -/
theorem failedBatchLeavesTheFrame : Obligations.FailedBatchLeavesTheFrame := by
  intro s r hready hr hb ha hhalt hsb n hn
  have hx := execLoad_of_ready hready hr hb
  rcases hn with ⟨rfl, hread⟩ | ⟨k, hread, rfl, hshort⟩
  · have hstep : loadStep s r =
        raise (loadLost (s.emit (.streamRead r.batchBytes none)) r) .readError (BitVec.ofNat 32 r.batchBytes) := by
      simp only [loadStep, answered_yes ha, streamRead, hread, Option.map_none]
    obtain ⟨hhalted, hupc, hfupc, hcode, hinfo, hrest⟩ :=
      raise_loadLost_losesBatch (.streamRead r.batchBytes none) .readError hhalt hsb (Nat.le_refl r.batchBytes)
    exact ⟨_, hx.trans (congrArg _ hstep), hhalted, hupc, hfupc, fun _ => ⟨hcode, hinfo⟩, by simp, hrest⟩
  · generalize hm : min (min k r.batchBytes) (s.file.length - s.cursor.toNat) = m at hshort ⊢
    have hstep : loadStep s r =
        raise (loadLost (s.emit (.streamRead r.batchBytes (some m))) r) .shortRead (BitVec.ofNat 32 m) := by
      simp [loadStep, answered_yes ha, streamRead, hread, hm, hshort]
    obtain ⟨hhalted, hupc, hfupc, hcode, hinfo, hrest⟩ :=
      raise_loadLost_losesBatch (.streamRead r.batchBytes (some m)) .shortRead hhalt hsb (Nat.le_of_lt hshort)
    exact ⟨_, hx.trans (congrArg _ hstep), hhalted, hupc, hfupc, by simp, by rintro _ ⟨⟩; exact ⟨hcode, hinfo⟩, hrest⟩

/-! ### A whole LOAD -/

/-- `t` is `s` after the first `n` batches of a LOAD of the frame at the cursor of `s`. -/
structure AfterBatches (s : State) (r : Routine) (n : Nat) (t : State) : Prop where
  ready : loadReady t = true
  routine : routineOf t.hdrSize = some r
  bidx : t.bidx.toNat = n
  cursor : t.cursor.toNat = s.cursor.toNat + n * r.batchBytes
  shows : showsRows t r s.cursor.toNat (n * (r.rows * r.scale))
  draws : ∀ k, t.drawAhead k = s.drawAhead (n + k)
  fbWf : Memory.wf fbBytes t.fb = true
  sbWf : Memory.wf sbBytes t.sb = true
  upc : t.upc = s.upc
  fss : t.fss = s.fss
  halted : t.halted = s.halted
  file : t.file = s.file

section

variable {s : State} {r : Routine} (hd : ∀ k, k < r.batches → healthyDraw (s.drawAhead k))
  (hfile : s.cursor.toNat + r.frameBytes ≤ s.file.length) (hlen : s.file.length < 2 ^ 64)
include hd hfile hlen

/-- The next batch of the LOAD reads whole; it shows its rows and moves the cursor. -/
theorem AfterBatches.batch {n : Nat} {t : State} (h : AfterBatches s r n t) (hn : n < r.batches) :
    ∃ bytes, exec .load t = .next (loadBatch (t.emit (.streamRead r.batchBytes (some r.batchBytes))) r bytes) ∧
      bytes.length = r.batchBytes ∧
      (t.cursor + BitVec.ofNat 64 r.batchBytes).toNat = s.cursor.toNat + (n + 1) * r.batchBytes ∧
      ∀ u : State, u.file = t.file → u.fb = blit r t.bidx.toNat t.fb (t.sb.writeBytes 0 bytes) →
        showsRows u r s.cursor.toNat ((n + 1) * (r.rows * r.scale)) := by
  have hdraw : s.drawAhead n = t.draw := (h.draws 0).symm
  obtain ⟨-, ha, -, ⟨k, hk, hfull⟩, -, -⟩ := hdraw ▸ hd n hn
  have hle : (n + 1) * r.batchBytes ≤ r.frameBytes := r.frameBytes_eq ▸ Nat.mul_le_mul_right _ hn
  have hcursor := h.cursor
  rw [Nat.succ_mul] at hle ⊢
  have hinside : t.cursor.toNat + r.batchBytes ≤ t.file.length := by rw [h.file]; omega
  obtain ⟨bytes, hread, hl, hx⟩ :=
    exec_load_whole h.ready h.routine (h.bidx.symm ▸ hn) ha hk (r.batchBytes_le.trans hfull) hinside
  refine ⟨bytes, hx, hl, ?_, fun u hufile hufb => showsRows_succ hufile h.shows (fun a hge hlt => ?_) fun a hlt => ?_⟩
  · have hsmall : r.batchBytes ≤ 4096 := r.batchBytes_le
    rw [BitVec.toNat_add, BitVec.toNat_ofNat]
    omega
  · rw [r.fbBatchBytes_succ] at hlt
    rw [hufb, read_blit_batch hread hl h.sbWf h.fbWf, h.bidx, if_pos ⟨hge, hlt⟩, hcursor]
  · rw [hufb, read_blit_batch hread hl h.sbWf h.fbWf, h.bidx, if_neg (by omega)]

/-- A batch before the last one continues the LOAD. -/
theorem AfterBatches.succ {n : Nat} {t : State} (h : AfterBatches s r n t) (hn : n + 1 < r.batches) :
    ∃ u, exec .load t = .next u ∧ AfterBatches s r (n + 1) u := by
  obtain ⟨bytes, hx, hl, hcursor, hshows⟩ := h.batch hd hfile hlen (Nat.lt_of_succ_lt hn)
  have hmore : t.bidx.toNat + 1 < r.batches := h.bidx.symm ▸ hn
  rw [loadBatch_more (s := t.emit _) bytes hmore] at hx
  refine ⟨_, hx, ?_⟩
  exact
    { ready := h.ready, routine := h.routine, bidx := (toNat_bidx_succ hmore).trans (congrArg (· + 1) h.bidx)
      cursor := hcursor, shows := hshows _ rfl rfl
      draws := fun k => (drawAhead_pass (s := t) rfl rfl k).trans
        ((h.draws (k + 1)).trans (congrArg s.drawAhead (by omega)))
      fbWf := wf_blit _ (Nat.lt_of_succ_lt hmore) h.fbWf
      sbWf := Memory.wf_writeBytes bytes h.sbWf (by have := r.batchBytes_le; omega)
      upc := h.upc, fss := h.fss, halted := h.halted, file := h.file }

/-- The batches of a LOAD, one step each, up to the last. -/
theorem AfterBatches.exists_execTimes (h0 : AfterBatches s r 0 s) (n : Nat) (hn : n < r.batches) :
    ∃ t, execTimes n .load s = some t ∧ AfterBatches s r n t := by
  induction n with
  | zero => exact ⟨s, rfl, h0⟩
  | succ n ih =>
    obtain ⟨t, ht, h⟩ := ih (Nat.lt_of_succ_lt hn)
    obtain ⟨u, hx, hu⟩ := h.succ hd hfile hlen hn
    exact ⟨u, execTimes_last ht hx, hu⟩

end

/-- Settles O24: by induction every batch but the last continues, and the last one completes the LOAD; the rows of the
batches together are all of FB. -/
theorem loadUpscalesTheWholeFrame : Obligations.LoadUpscalesTheWholeFrame := by
  intro s r hready hr hbidx hd hfile hlen hfb hsb
  have h0 : AfterBatches s r 0 s :=
    { ready := hready, routine := hr, bidx := by simp [hbidx], cursor := by simp
      shows := fun x y j _ hy => by simp at hy
      draws := fun k => by rw [Nat.zero_add], fbWf := hfb, sbWf := hsb, upc := rfl, fss := rfl, halted := rfl
      file := rfl }
  obtain ⟨n, hn⟩ : ∃ n, r.batches = n + 1 := Nat.exists_eq_succ_of_ne_zero r.batches_pos.ne'
  obtain ⟨t, ht, h⟩ := h0.exists_execTimes hd hfile hlen n (by omega)
  obtain ⟨bytes, hx, -, hcursor, hshows⟩ := h.batch hd hfile hlen (by omega)
  have hlast : ¬t.bidx.toNat + 1 < r.batches := by rw [h.bidx]; omega
  rw [loadBatch_last (s := t.emit _) bytes hlast] at hx
  rw [← hn, ← r.frameBytes_eq] at hcursor
  rw [← hn, r.batches_mul_rows] at hshows
  rw [hn]
  exact ⟨_, execTimes_last ht hx, hshows _ rfl rfl, hcursor, congrArg (· + 1) h.fss, rfl, rfl, congrArg (· + 1) h.upc,
    h.halted, h.file⟩

/-! ### The loop point -/

section

variable {s : State} (hm : s.busMode = .storage) (ho : s.streamOpen = true) (hv : s.hdrValid = true)
include hm ho hv

theorem exec_loopchk_ready : exec .loopchk s = .next (if s.fss = s.hdrCount then loopSeek s else complete s) := by
  simp only [exec, execLoopchk, need_pos (decide_eq_true hm), need_pos ho, need_pos hv]

theorem exec_loopchk_other (hne : s.fss ≠ s.hdrCount) : exec .loopchk s = .next (complete s) := by
  rw [exec_loopchk_ready hm ho hv, if_neg hne]

theorem exec_loopchk_seek (he : s.fss = s.hdrCount) (ha : s.draw.answers = true) (hs : s.draw.seeks = true) :
    exec .loopchk s = .next (complete { s.emit (.streamSeek 8 true) with cursor := 8, fss := 0 }) := by
  simp only [exec_loopchk_ready hm ho hv, if_pos he, loopSeek, answered_yes ha, hs, if_true]

theorem exec_loopchk_failed (he : s.fss = s.hdrCount) (ha : s.draw.answers = true) (hs : s.draw.seeks = false) :
    exec .loopchk s = .next (raise (s.emit (.streamSeek 8 false)) .seekError 8) := by
  simp only [exec_loopchk_ready hm ho hv, if_pos he, loopSeek, answered_yes ha, hs, Bool.false_eq_true, if_false]

end

/-- What a LOOPCHK that completes leaves beside the stream, and how the environment moves on. -/
def KeepsBesideStream (s t : State) : Prop :=
  t.upc = s.upc + 1 ∧ SameCodec s t ∧ t.busMode = s.busMode ∧ SameLoader s t ∧ SamePlay s t ∧ Quiet s t

theorem CompletesWith.loopchk_keeps {s u : State} (hw : CompletesWith s .loopchk u) :
    KeepsBesideStream s (complete u) := by
  cases hw with
  | rewound | notYet =>
    exact ⟨rfl, ⟨⟨rfl, rfl⟩, ⟨rfl, rfl, rfl, rfl, rfl, rfl⟩, ⟨rfl, rfl, rfl, rfl⟩, rfl⟩, rfl,
      ⟨rfl, rfl, fun _ => rfl, fun _ => rfl⟩, ⟨⟨rfl, rfl, rfl⟩, rfl, ⟨rfl, rfl, rfl, rfl⟩, rfl⟩, ⟨rfl, rfl, rfl⟩,
      ⟨rfl, rfl⟩, rfl, rfl, rfl, rfl⟩

/-- Settles O25: the three preconditions in order, then the seek at the loop point alone. -/
theorem loopchkSeeksAtTheLoopPoint : Obligations.LoopchkSeeksAtTheLoopPoint := by
  intro s
  refine ⟨fun hm => ?_, fun hm ho => ?_, fun hm ho hv => ?_, fun hm ho hv => ⟨fun hne => ?_, fun he ha hs => ?_,
    exec_loopchk_failed hm ho hv⟩⟩
  · exact congrArg _ (need_neg (decide_eq_false hm) ..)
  · exact congrArg _ ((need_pos (decide_eq_true hm) ..).trans (need_neg ho ..))
  · exact congrArg _ ((need_pos (decide_eq_true hm) ..).trans ((need_pos ho ..).trans (need_neg hv ..)))
  · exact ⟨_, exec_loopchk_other hm ho hv hne, rfl, ⟨rfl, rfl, rfl, rfl, rfl⟩, (CompletesWith.notYet hne).loopchk_keeps⟩
  · exact ⟨_, exec_loopchk_seek hm ho hv he ha hs, rfl, rfl, rfl, rfl, rfl, rfl,
      (CompletesWith.rewound (s := s.emit _)).loopchk_keeps⟩

/-- Before the loop point `fss` stands, and at it `fss` becomes 0: `fss` modulo `hdr_count` (41_loader.md R265). -/
theorem exec_loopchk_wraps {s : State} (hm : s.busMode = .storage) (ho : s.streamOpen = true) (hv : s.hdrValid = true)
    (hle : s.fss.toNat ≤ s.hdrCount.toNat)
    (hseek : s.fss = s.hdrCount → s.draw.answers = true ∧ s.draw.seeks = true) :
    ∃ t, exec .loopchk s = .next t ∧ t.fss.toNat = s.fss.toNat % s.hdrCount.toNat ∧ t.halted = s.halted ∧
      t.upc = s.upc + 1 ∧ t.hdrCount = s.hdrCount ∧ t.hdrSize = s.hdrSize ∧ t.bidx = s.bidx := by
  by_cases he : s.fss = s.hdrCount
  · obtain ⟨ha, hs⟩ := hseek he
    refine ⟨_, exec_loopchk_seek hm ho hv he ha hs, ?_, rfl, rfl, rfl, rfl, rfl⟩
    rw [he, Nat.mod_self]
    rfl
  · have hlt : s.fss.toNat < s.hdrCount.toNat := Nat.lt_of_le_of_ne hle fun h => he (BitVec.eq_of_toNat_eq h)
    exact ⟨_, exec_loopchk_other hm ho hv he, (Nat.mod_eq_of_lt hlt).symm, rfl, rfl, rfl, rfl, rfl⟩

/-- Settles O52: LOOPCHK completes with `fss` modulo `hdr_count`, and the next state meets the ROM's invariant, which
says where the cursor stands. -/
theorem loopPointWrapsTheFrameIndex : Obligations.LoopPointWrapsTheFrameIndex := by
  intro s r h hh hu hr hreset hseek
  have hi : runs s .loopchk := by
    have hrun := h.runs
    rwa [hu] at hrun
  obtain ⟨-, hle⟩ := h.counted hh (by omega)
  have hupc : (s.upc + 1).toNat = 18 := by bv_omega
  have hb : s.bidx = 0 := h.inv.bidx_eq_zero hi (by decide)
  obtain ⟨t, hx, hfss, hh', hupc', hcount, hsize, hb'⟩ :=
    exec_loopchk_wraps (h.storage hh (by omega)) (h.stream hh (by omega)) (h.headerRegs hh (by omega)) hle hseek
  have hstep := (step_of_runs hreset hh hi).trans hx
  have ht := h.step hstep
  have hu' : t.upc.toNat = 18 := hupc' ▸ hupc
  have hcursor := ht.cursorAt (hh'.trans hh) (by omega) r (hsize ▸ hr)
  rw [hfss, hb', hb] at hcursor
  exact ⟨t, hstep, hu', hfss, hcount, ht.beforeLast (hh'.trans hh) hu', by simpa using hcursor⟩

end Sys2Proof.Machine

namespace Sys2Proof.Machine

open Sys2Proof

/-! ### The faults of an op

An op adds at most one fault to the record. `exec_faults` says which faults an op can raise and, for the model checks
of 60_exceptions.md R401, which of its preconditions has failed. -/

/-- The ops of the storage class (42_boot.md R305). -/
def storageOps : List Instr := [.select, .hdrRd, .load, .loopchk]

/-- Why op `i` can raise `c` from `s`: a precondition that fails, or a fault that is no model check. -/
inductive CanRaise (s : State) : Instr → FatalCode → Prop where
  | notStorage {i : Instr} (hi : i ∈ storageOps) (hm : s.busMode ≠ .storage) : CanRaise s i .busModeViolation
  | notDisplay (hm : s.busMode ≠ .display) : CanRaise s .present .busModeViolation
  | noStream {i : Instr} (hi : i ∈ [Instr.hdrRd, .load, .loopchk]) (ho : s.streamOpen = false) :
    CanRaise s i .noStream
  | noHeaderBytes (hv : s.hbufValid = false) : CanRaise s .hdrDec .noHeader
  | noHeaderRegs {i : Instr} (hi : i ∈ [Instr.hdrAcc, .rateQ, .hint, .load, .loopchk]) (hv : s.hdrValid = false) :
    CanRaise s i .noHeader
  | noRate {i : Instr} (hi : i ∈ [Instr.hint, .pace]) (hv : s.rateValid = false) : CanRaise s i .noRate
  | noTimestamp (hv : s.tsValid = false) : CanRaise s .pace .noTimestamp
  | fbUnwritten (hv : s.fbValid = false) : CanRaise s .present .fbUnwritten
  | unchecked (i : Instr) {c : FatalCode} (hc : c.isModelCheck = false) : CanRaise s i c

/-- From `s` to `t` op `i` adds no fault to the record, or one that it can raise. -/
def Faults (i : Instr) (s t : State) : Prop :=
  fatals t.events = fatals s.events ∨ ∃ c, CanRaise s i c ∧ fatals t.events = c :: fatals s.events

/-- A fault raised after transactions that are none. -/
theorem Faults.raise {i : Instr} {s u : State} {c : FatalCode} (hc : CanRaise s i c) (info : Word32)
    (hu : fatals u.events = fatals s.events := by rfl) : Faults i s (raise u c info) :=
  .inr ⟨c, hc, (fatals_raise u c info).trans (congrArg _ hu)⟩

theorem Faults.need {i : Instr} {ok : Bool} {c : FatalCode} {info : Word32} {s next : State}
    (hc : ok = false → CanRaise s i c) (h : Faults i s next) : Faults i s (need ok c info s next) :=
  need_elim (fun hno => .raise (hc hno) info) fun _ => h

theorem Faults.answered {i : Instr} {s next : State} (h : Faults i s next) : Faults i s (answered s next) :=
  answered_elim (fun _ => .inl rfl) fun _ => h

/-- The check of the bus mode that every storage-class op makes first (42_boot.md R305). -/
theorem Faults.needStorage {i : Instr} {info : Word32} {s next : State} (hi : i ∈ storageOps)
    (h : Faults i s next) :
      Faults i s (Machine.need (decide (s.busMode = .storage)) .busModeViolation info s next) :=
  .need (fun hm => .notStorage hi (of_decide_eq_false hm)) h

theorem execSelect_faults {s t : State} (h : execSelect s = .next t) : Faults .select s t := by
  unfold execSelect at h
  obtain rfl := Host.Outcome.next.inj h
  refine .needStorage (by decide) (.answered ?_)
  cases dirEnumerate s with
  | none => exact .raise (.unchecked _ rfl) _
  | some list =>
    rcases selectFrom_cases (s.emit (.dirEnumerate true)) list with ⟨-, h⟩ | ⟨k, -, -, -, h⟩ | ⟨k, -, -, -, h⟩ <;>
      dsimp only <;> rw [h]
    · exact .raise (.unchecked _ rfl) _
    · exact .raise (.unchecked _ rfl) _
    · exact .inl rfl

theorem execHdrRd_faults {s t : State} (h : execHdrRd s = .next t) : Faults .hdrRd s t := by
  unfold execHdrRd at h
  obtain rfl := Host.Outcome.next.inj h
  refine .needStorage (by decide) (.need (.noStream (by decide)) (.answered ?_))
  cases streamRead s 8 with
  | none => exact .raise (.unchecked _ rfl) _
  | some b =>
    dsimp only
    split
    · exact .raise (.unchecked _ rfl) _
    · exact .inl rfl

theorem headerFault_unchecked (b : Vector Byte 8) (e : HeaderError) : (headerFault b e).1.isModelCheck = false := by
  cases e <;> rfl

theorem execHdrDec_faults {s t : State} (h : execHdrDec s = .next t) : Faults .hdrDec s t := by
  unfold execHdrDec at h
  obtain rfl := Host.Outcome.next.inj h
  refine .need .noHeaderBytes ?_
  cases decodeHeader s.hdrBuf s.par.ratePolicy with
  | err e => exact .raise (.unchecked _ (headerFault_unchecked _ e)) _
  | ok h => exact .inl rfl

theorem execHdrAcc_faults {s t : State} (h : execHdrAcc s = .next t) : Faults .hdrAcc s t := by
  unfold execHdrAcc at h
  obtain rfl := Host.Outcome.next.inj h
  exact .need (.noHeaderRegs (by decide))
    (.need (fun _ => .unchecked _ rfl) (.need (fun _ => .unchecked _ rfl) (.inl rfl)))

theorem loadRefused_faults (s : State) : Faults .load s (loadRefused s) :=
  .needStorage (by decide)
    (.need (.noStream (by decide)) (.need (.noHeaderRegs (by decide)) (.raise (.unchecked _ rfl) _)))

theorem loadBatch_events (s : State) (r : Routine) (bytes : List Byte) : (loadBatch s r bytes).events = s.events := by
  obtain ⟨-, hevents, -⟩ := loadAdvance_keeps _ r
  exact hevents

theorem loadStep_faults (s : State) (r : Routine) : Faults .load s (loadStep s r) := by
  rcases loadStep_cases s r with ⟨-, h⟩ | ⟨-, -, h⟩ | ⟨bytes, -, -, -, h⟩ | ⟨bytes, -, -, -, h⟩ <;> rw [h]
  · exact .inl rfl
  · exact .raise (.unchecked _ rfl) _
  · exact .raise (.unchecked _ rfl) _
  · exact .inl ((congrArg fatals (loadBatch_events _ r bytes)).trans rfl)

theorem execLoad_faults {s t : State} (h : execLoad s = .next t) : Faults .load s t := by
  by_cases hready : loadReady s = true
  · rcases execLoad_cases s with ⟨hno, -⟩ | ⟨-, -, hx⟩ | ⟨r, -, -, -, hx⟩ | ⟨r, -, -, -, hx⟩
    · cases hready.symm.trans hno
    · cases hx.symm.trans h
    · cases hx.symm.trans h
    · obtain rfl := Host.Outcome.next.inj (hx.symm.trans h)
      exact loadStep_faults s r
  · obtain rfl := Host.Outcome.next.inj ((execLoad_of_not_ready hready).symm.trans h)
    exact loadRefused_faults s

theorem execLoopchk_faults {s t : State} (h : execLoopchk s = .next t) : Faults .loopchk s t := by
  unfold execLoopchk at h
  obtain rfl := Host.Outcome.next.inj h
  refine .needStorage (by decide) (.need (.noStream (by decide)) (.need (.noHeaderRegs (by decide)) ?_))
  split
  · rcases loopSeek_cases s with ⟨-, h⟩ | ⟨-, -, h⟩ | ⟨-, -, h⟩ <;> rw [h]
    · exact .inl rfl
    · exact .inl rfl
    · exact .raise (.unchecked _ rfl) _
  · exact .inl rfl

theorem teWait_events (s : State) (level : Bool) : (teWait s level).events = s.events := by
  rcases teWait_cases s level with ⟨-, h⟩ | ⟨-, h⟩ <;> rw [h] <;> rfl

theorem delayStep_events (s : State) (t len : Micros) : (delayStep s t len).events = s.events := by
  unfold delayStep delayStart
  dsimp only
  split_ifs <;> rfl

theorem execPresent_faults {s t : State} (h : execPresent s = .next t) : Faults .present s t := by
  unfold execPresent at h
  obtain rfl := Host.Outcome.next.inj h
  refine .need (fun hm => .notDisplay (of_decide_eq_false hm)) (.need .fbUnwritten (.answered ?_))
  dsimp only
  split
  · exact .inl rfl
  · exact .raise (.unchecked _ rfl) _

theorem execBlOn2_faults {s t : State} (h : execBlOn2 s = .next t) : Faults .blOn2 s t := by
  unfold execBlOn2 at h
  obtain rfl := Host.Outcome.next.inj h
  split
  · exact .answered (.inl rfl)
  · exact .inl rfl

theorem execPace_faults {s t : State} (h : execPace s = .next t) : Faults .pace s t := by
  unfold execPace at h
  obtain rfl := Host.Outcome.next.inj h
  split
  · exact .inl (congrArg fatals (delayStep_events ..))
  · exact .need (.noRate (by decide)) (.need .noTimestamp (.inl (congrArg fatals (delayStep_events ..))))

/-- The fault an op adds to the record, if any, is one that it can raise. -/
theorem exec_faults {i : Instr} {s t : State} (h : exec i s = .next t) : Faults i s t := by
  cases i with
  | select => exact execSelect_faults h
  | hdrRd => exact execHdrRd_faults h
  | hdrDec => exact execHdrDec_faults h
  | hdrAcc => exact execHdrAcc_faults h
  | load => exact execLoad_faults h
  | loopchk => exact execLoopchk_faults h
  | present => exact execPresent_faults h
  | blOn2 => exact execBlOn2_faults h
  | pace => exact execPace_faults h
  | spdS | spdD =>
    obtain rfl := Host.Outcome.next.inj h
    exact .answered (.inl rfl)
  | rateQ =>
    obtain rfl := Host.Outcome.next.inj h
    exact .need (.noHeaderRegs (by decide)) (.inl rfl)
  | hint =>
    obtain rfl := Host.Outcome.next.inj h
    exact .need (.noHeaderRegs (by decide)) (.need (.noRate (by decide)) (.inl rfl))
  | teRise | teFall =>
    obtain rfl := Host.Outcome.next.inj h
    exact .inl (congrArg fatals (teWait_events ..))
  | settle =>
    obtain rfl := Host.Outcome.next.inj h
    exact .inl (congrArg fatals (delayStep_events ..))
  | iterBegin | jmp =>
    obtain rfl := Host.Outcome.next.inj h
    exact .inl rfl

/-! ### The model checks under the normative ROM -/

/-- Where the ROM holds one of some ops (42_boot.md R300). -/
theorem State.RomInv.address_of_mem {s : State} {i : Instr} {ops : List Instr} {p : Nat → Prop} (h : s.RomInv)
    (hi : Machine.runs s i) (hmem : i ∈ ops) (hp : ∀ n ≤ 21, normativeOps.getD n .load ∈ ops → p n) :
    p s.upc.toNat :=
  hp _ h.upcLe (h.op_eq hi ▸ hmem)

theorem State.RomInv.le_upc {s : State} {i : Instr} {ops : List Instr} {k : Nat} (h : s.RomInv)
    (hi : Machine.runs s i) (hmem : i ∈ ops) (hp : ∀ n ≤ 21, normativeOps.getD n .load ∈ ops → k ≤ n) :
    k ≤ s.upc.toNat :=
  h.address_of_mem (p := (k ≤ ·)) hi hmem hp

/-- An op of the ROM finds every precondition that a model check asks (42_boot.md R311). -/
theorem State.RomInv.not_modelCheck {s : State} {i : Instr} {c : FatalCode} (h : s.RomInv) (hh : s.halted = false)
    (hi : Machine.runs s i) (hc : CanRaise s i c) : c.isModelCheck = false := by
  cases hc with
  | notStorage hmem hm =>
    have haddr : 1 ≤ s.upc.toNat ∧ s.upc.toNat ≤ 8 ∨ 17 ≤ s.upc.toNat ∧ s.upc.toNat ≤ 19 :=
      h.address_of_mem (p := fun n => 1 ≤ n ∧ n ≤ 8 ∨ 17 ≤ n ∧ n ≤ 19) hi hmem (by decide)
    exact absurd (h.storage hh haddr) hm
  | notDisplay hm =>
    have haddr : s.upc.toNat = 14 := h.address_of_mem (p := (· = 14)) hi (List.mem_singleton_self _) (by decide)
    exact absurd (h.display hh (by omega)) hm
  | noStream hmem ho => cases ho.symm.trans (h.stream hh (h.le_upc hi hmem (by decide)))
  | noHeaderBytes hv => cases hv.symm.trans (h.headerBytes hh (h.le_upc hi (List.mem_singleton_self _) (by decide)))
  | noHeaderRegs hmem hv => cases hv.symm.trans (h.headerRegs hh (h.le_upc hi hmem (by decide)))
  | noRate hmem hv => cases hv.symm.trans (h.rated hh (h.le_upc hi hmem (by decide)))
  | noTimestamp hv => cases hv.symm.trans (h.stamped hh (h.le_upc hi (List.mem_singleton_self _) (by decide)))
  | fbUnwritten hv => cases hv.symm.trans (h.primed hh (h.le_upc hi (List.mem_singleton_self _) (by decide)))
  | unchecked _ hc => exact hc

/-- Settles O49, by `State.RomInv.step`: a step of the ROM parks the block, holds at its op or completes it. -/
theorem everyStepKeepsTheRomInvariant : Obligations.EveryStepKeepsTheRomInvariant :=
  fun _ _ h hstep => h.step hstep

/-- Settles O57: no word of the ROM is illegal, and the op at each address finds what its model checks ask. -/
theorem romStepsRaiseNoModelCheck : Obligations.RomStepsRaiseNoModelCheck := by
  intro s t h hstep c hmem
  rcases step_cases s with ⟨-, hx⟩ | ⟨-, -, hx⟩ | ⟨w, -, -, hw, -⟩ | ⟨i, -, hh, hi, hx⟩
  · obtain rfl := Host.Outcome.next.inj (hx.symm.trans hstep)
    exact .inl hmem
  · cases hx.symm.trans hstep
  · cases hw.symm.trans h.runs
  · rcases exec_faults (hx.symm.trans hstep) with he | ⟨d, hd, he⟩ <;> rw [he] at hmem
    · exact .inl hmem
    · rcases List.mem_cons.1 hmem with rfl | hmem
      · exact .inr (h.not_modelCheck hh hi hd)
      · exact .inl hmem

end Sys2Proof.Machine

namespace Sys2Proof.Machine

open Sys2Proof

/-! ### The bus classes -/

/-- Settles O18: the mode is the first check of the five ops, and of the rest none can raise BUS_MODE_VIOLATION. -/
theorem busClassesNeedTheirMode : Obligations.BusClassesNeedTheirMode := by
  refine fun s => ⟨fun i hi hm => ?_, fun hm => congrArg _ (need_neg (decide_eq_false hm) ..), fun i hi t hx hf => ?_⟩
  · have hno : decide (s.busMode = .storage) = false := decide_eq_false hm
    simp only [List.mem_cons, List.not_mem_nil, or_false] at hi
    rcases hi with rfl | rfl | rfl | rfl
    · exact congrArg _ (need_neg hno ..)
    · exact congrArg _ (need_neg hno ..)
    · refine (execLoad_of_not_ready fun hready => hm (loadReady_iff.1 hready).1).trans (congrArg _ ?_)
      exact need_neg hno ..
    · exact congrArg _ (need_neg hno ..)
  · rcases exec_faults hx with he | ⟨c, hc, he⟩
    · exact List.cons_ne_self _ _ (hf.symm.trans he)
    · obtain rfl : c = .busModeViolation := List.head_eq_of_cons_eq (he.symm.trans hf)
      cases hc with
      | notStorage hmem => exact hi (List.mem_append_left [Instr.present] hmem)
      | notDisplay => exact hi (by decide)
      | unchecked _ hcheck => cases hcheck

/-! ### The step and the word it fetches -/

/-- The Halted state takes no step (60_exceptions.md R405). -/
theorem step_of_halted {s : State} (hr : s.draw.reset = false) (hh : s.halted = true) : step s = .fault .halted := by
  simp only [step, hr, hh, Bool.false_eq_true, if_false, if_true]

/-- Settles O4, by the three cases of a step that is no reset. -/
theorem stepRunsTheDecodedOp : Obligations.StepRunsTheDecodedOp :=
  fun _ hr => ⟨step_of_halted hr, fun hh _ => step_of_illegal hr hh, fun hh _ => step_of_runs hr hh⟩

theorem fetch_withFetchWord (s : State) (nbits w : Nat) : fetch (s.withFetchWord nbits w) = tableWord nbits w :=
  Vector.getElem_set_self ..

/-- A word that the decoder reads as `i` decodes to `i`. -/
theorem decodeOp_tableWord {nbits w : Nat} {i : Instr} (h : decodeTableWord nbits w = some i) :
    decodeOp (tableWord nbits w) = .op i := by
  unfold decodeTableWord at h
  split at h
  next j hj => exact hj.trans (congrArg _ (Option.some.inj h))
  next => cases h

/-- Settles O5: the placed word stands where the step fetches, the block is not halted and the reset input is
released. -/
theorem placedWordRunsNext : Obligations.PlacedWordRunsNext := by
  intro s w i hw
  have hfetch := fetch_withFetchWord s 8 w
  have hword : tableWord 8 w = BitVec.ofNat 8 w := BitVec.eq_of_toNat_eq (by simp [tableWord])
  have hruns : runs (s.withFetchWord 8 w) i := (congrArg decodeOp hfetch).trans (decodeOp_tableWord hw)
  exact ⟨hfetch.trans hword, step_of_runs rfl rfl hruns⟩

/-! ### The boot ops -/

/-- What every boot op that completes leaves as it was, and how the environment moves on. -/
def KeepsBesideBoot (s t : State) : Prop := SameLoader s t ∧ SamePlay s t ∧ Quiet s t

/-- The boot ops write the bus mode, the stream registers and the header bytes alone. -/
theorem Writes.complete_keepsBesideBoot {i : Instr} {s u : State} (hw : Writes s i u)
    (hi : i ∈ [Instr.spdS, .spdD, .select, .hdrRd]) : KeepsBesideBoot s (complete u) := by
  cases hw with
  | nothing | busMode | opened | headerBytes | cursorLost =>
    exact ⟨⟨rfl, rfl, fun _ => rfl, fun _ => rfl⟩, ⟨⟨rfl, rfl, rfl⟩, rfl, ⟨rfl, rfl, rfl, rfl⟩, rfl⟩, ⟨rfl, rfl, rfl⟩,
      ⟨rfl, rfl⟩, rfl, rfl, rfl, rfl⟩
  | sampled hop => rcases hop with rfl | rfl <;> simp at hi
  | _ => simp at hi

/-- What a speed switch that answers does: one BusSetSpeed, the mode, and nothing else (42_boot.md R303, R304). -/
def SwitchesSpeed (s : State) (hz : Nat) (mode : BusMode) (t : State) : Prop :=
  t.busMode = mode ∧ t.events = .busSetSpeed hz s.draw.actualHz :: s.events ∧ t.upc = s.upc + 1 ∧ SameCodec s t ∧
    SameStream s t ∧ SameLoader s t ∧ SamePlay s t ∧ Quiet s t

theorem setSpeed_switchesSpeed {s : State} (ha : s.draw.answers = true) (hz : Nat) (mode : BusMode) :
    SwitchesSpeed s hz mode (setSpeed s hz mode) := by
  rw [setSpeed, answered_yes ha]
  have hwrites := Writes.busMode (s := s.emit (.busSetSpeed hz s.draw.actualHz)) (i := .spdS) (.inl rfl) mode
  exact ⟨rfl, rfl, rfl, ⟨⟨rfl, rfl⟩, ⟨rfl, rfl, rfl, rfl, rfl, rfl⟩, ⟨rfl, rfl, rfl, rfl⟩, rfl⟩,
    ⟨rfl, rfl, rfl, rfl, rfl⟩, hwrites.complete_keepsBesideBoot (by decide)⟩

/-- Settles O15: both switches are `setSpeed`, which asks for the answer and for nothing else. -/
theorem speedSwitchesSetTheBusMode : Obligations.SpeedSwitchesSetTheBusMode :=
  fun _ =>
    ⟨fun ha => ⟨⟨_, rfl, setSpeed_switchesSpeed ha _ _⟩, ⟨_, rfl, setSpeed_switchesSpeed ha _ _⟩⟩,
      fun ha => ⟨congrArg _ (answered_no ha _), congrArg _ (answered_no ha _)⟩⟩

/-! ### SELECT -/

/-- SELECT at storage speed, once the directory has answered (42_boot.md R306). -/
theorem exec_select_listed {s : State} {list : List (List Byte)} (hm : s.busMode = .storage)
    (ha : s.draw.answers = true) (hl : dirEnumerate s = some list) :
    exec .select s = .next (selectFrom (s.emit (.dirEnumerate true)) list) := by
  simp only [exec, execSelect, need_pos (decide_eq_true hm), answered_yes ha, hl]

/-- The drawn index is a word's remainder, and so fits `sel_index`. -/
theorem toNat_drawnIndex (w : Word32) (n : Nat) : (BitVec.ofNat 32 (w.toNat % n)).toNat = w.toNat % n :=
  Nat.mod_eq_of_lt ((Nat.mod_le _ _).trans_lt w.isLt)

/-! What SELECT does with a list of `n` candidates, cut to P_MAX_FILES. -/

theorem selectFrom_none {s : State} {list : List (List Byte)} (hn : min list.length s.par.maxFiles = 0) :
    selectFrom s list = raise s .noFiles 0 :=
  if_pos hn

section

variable {s : State} {list : List (List Byte)} {n : Nat} (hn : n ≠ 0) (hmin : min list.length s.par.maxFiles = n)
include hn hmin

theorem selectFrom_failed (ho : s.draw.opens = false) :
    selectFrom s list =
      raise (openTried s (s.draw.rng.toNat % n) false) .openError (BitVec.ofNat 32 (s.draw.rng.toNat % n)) := by
  simp only [selectFrom, hmin, if_neg hn, ho, Bool.false_eq_true, if_false]

theorem selectFrom_opened (ho : s.draw.opens = true) :
    selectFrom s list =
      complete
        (openedAt (openTried s (s.draw.rng.toNat % n) true) (s.draw.rng.toNat % n)
          (list.getD (s.draw.rng.toNat % n) [])) := by
  simp only [selectFrom, hmin, if_neg hn, ho, if_true]

theorem drawnIndex_lt : s.draw.rng.toNat % n < list.length := by
  have := Nat.mod_lt s.draw.rng.toNat (Nat.pos_of_ne_zero hn)
  omega

end

/-- Settles O16: the checks in order, and then the three ends of `selectFrom`. -/
theorem selectOpensTheDrawnCandidate : Obligations.SelectOpensTheDrawnCandidate := by
  refine fun s =>
    ⟨fun hm => congrArg _ (need_neg (decide_eq_false hm) ..), fun hm ha => ⟨fun hl => ?_, fun list hl => ?_⟩⟩
  · simp only [exec, execSelect, need_pos (decide_eq_true hm), answered_yes ha, hl]
  · intro n i asked
    have hx := exec_select_listed hm ha hl
    refine ⟨fun hn => ?_, fun hn ho => ?_, fun hn ho => ?_⟩
    · exact hx.trans (congrArg _ (selectFrom_none hn))
    · exact hx.trans (congrArg _ (selectFrom_failed hn rfl ho))
    · have hlt : i < list.length := drawnIndex_lt (s := s) hn rfl
      have hwrites := Writes.opened (s := openTried (s.emit (.dirEnumerate true)) i true) i (list.getD i [])
      refine ⟨_, hx.trans (congrArg _ (selectFrom_opened hn rfl ho)), hlt, toNat_drawnIndex _ _, rfl, rfl, rfl, ?_, rfl,
        rfl, ⟨⟨rfl, rfl⟩, ⟨rfl, rfl, rfl, rfl, rfl, rfl⟩, ⟨rfl, rfl, rfl, rfl⟩, rfl⟩, rfl,
        hwrites.complete_keepsBesideBoot (by decide)⟩
      exact (congrArg some (List.getD_eq_getElem list [] hlt)).trans (List.getElem?_eq_getElem hlt).symm

/-! ### HDR.RD -/

section

variable {s : State} (hm : s.busMode = .storage) (ho : s.streamOpen = true) (ha : s.draw.answers = true)
include hm ho ha

theorem exec_hdrRd_failed (hr : streamRead s 8 = none) :
    exec .hdrRd s = .next (raise (loseCursor (s.emit (.streamRead 8 none))) .readError 8) := by
  simp only [exec, execHdrRd, need_pos (decide_eq_true hm), need_pos ho, answered_yes ha, hr]

theorem exec_hdrRd_short {bytes : List Byte} (hr : streamRead s 8 = some bytes) (hl : bytes.length < 8) :
    exec .hdrRd s =
      .next (raise (loseCursor (s.emit (.streamRead 8 (some bytes.length)))) .shortRead
        (BitVec.ofNat 32 bytes.length)) := by
  simp only [exec, execHdrRd, need_pos (decide_eq_true hm), need_pos ho, answered_yes ha, hr, if_pos hl]

theorem exec_hdrRd_whole {bytes : List Byte} (hr : streamRead s 8 = some bytes) (hl : bytes.length = 8) :
    exec .hdrRd s =
      .next (complete
          { s.emit (.streamRead 8 (some 8)) with
            hdrBuf := headerBytes bytes, hbufValid := true, cursor := s.cursor + 8 }) := by
  simp only [exec, execHdrRd, need_pos (decide_eq_true hm), need_pos ho, answered_yes ha, hr, hl, lt_irrefl, if_false]

end

/-- A read that the device answers gives what it draws, as far as the file goes (20_memory.md R102). -/
theorem streamRead_drawn {s : State} {k : Nat} (n : Nat) (hk : s.draw.read = some k) :
    ∃ bytes, streamRead s n = some bytes ∧ bytes.length = min (min k n) (s.file.length - s.cursor.toNat) :=
  ⟨_, by simp only [streamRead, hk, Option.map_some]; rfl, by simp⟩

/-- Settles O17: the two checks, then a read that fails, is short, or gives the eight bytes. -/
theorem hdrRdReadsEightBytes : Obligations.HdrRdReadsEightBytes := by
  refine fun s => ⟨fun hm => congrArg _ (need_neg (decide_eq_false hm) ..), fun hm ho => ?_, fun hm ho ha =>
    ⟨fun hr => ⟨_, exec_hdrRd_failed hm ho ha (by simp only [streamRead, hr, Option.map_none])⟩, fun k hk => ?_⟩⟩
  · exact congrArg _ ((need_pos (decide_eq_true hm) ..).trans (need_neg ho ..))
  · obtain ⟨bytes, hread, hlen⟩ := streamRead_drawn 8 hk
    intro n
    refine ⟨fun hn => ⟨Config.freeCursor s.tick, ?_⟩, fun hn => ?_⟩
    · have hx := exec_hdrRd_short hm ho ha hread (hlen.trans_lt hn)
      rw [hlen] at hx
      exact hx
    · have hl : bytes.length = 8 := hlen.trans hn
      have hwrites := Writes.headerBytes (s := s.emit (.streamRead 8 (some 8))) (headerBytes bytes)
      refine ⟨_, exec_hdrRd_whole hm ho ha hread hl, rfl, fun j hj => ?_, rfl, rfl, rfl,
        ⟨rfl, rfl, rfl, rfl, rfl, rfl⟩, ⟨rfl, rfl, rfl, rfl⟩, rfl, rfl, rfl, rfl, rfl, rfl,
        hwrites.complete_keepsBesideBoot (by decide)⟩
      exact (getElem_headerBytes hl.ge j hj).trans (getElem?_streamRead hread (by omega))

/-! ### The state after reset -/

/-- The reset state is the reset of the block from itself, and address 0 asks for nothing. -/
theorem romInv_reset (p : Params) (script : List Draw) (time : Nat) :
    State.RomInv { State.reset with par := p, script := script, time := time } :=
  State.Inv.romInv (inv_blockReset { State.reset with par := p, script := script, time := time }) rfl (.inr rfl)

/-- Settles O48: FB is shown at no address before the prime LOAD. -/
theorem resetMeetsTheRomInvariant : Obligations.ResetMeetsTheRomInvariant := by
  intro p script time
  have hupc : (State.reset.upc).toNat = 0 := rfl
  exact
    { romInv := romInv_reset p script time
      shown := fun _ hu => absurd hu (by simp only [hupc]; omega)
      partly := fun _ hu => absurd hu (by simp only [hupc]; omega) }

/-! ### The source's state -/

/-- At an address of PlayLoop the source's state is its step there. -/
theorem phase_playLoop {s : State} {p : PlayStep} (hh : s.halted = false) (hlo : 9 ≤ s.upc.toNat)
    (hhi : s.upc.toNat ≤ 21) (hp : playStep s.upc.toNat = p) : phase s = some (.playLoop p) := by
  simp (disch := omega) only [phase, hh, Bool.false_eq_true, if_false, if_neg, if_pos, hp]

/-- Settles O54, address range by address range. -/
theorem phaseFollowsTheMicroAddress : Obligations.PhaseFollowsTheMicroAddress := by
  refine fun s => ⟨fun hh => by simp only [phase, hh, if_true], fun hh => ?_⟩
  intro u
  refine ⟨fun hu => ?_, fun hu => ?_, fun hu => ?_, fun hu => ?_, fun ⟨hlo, hhi⟩ => ?_, fun ⟨hlo, hhi⟩ => ?_,
    fun ⟨hlo, hhi⟩ => ?_, fun hu => ?_, fun hu => ?_, fun hu => ?_⟩
  · simp (disch := omega) only [phase, hh, Bool.false_eq_true, if_false, if_pos]
  · simp (disch := omega) only [phase, hh, Bool.false_eq_true, if_false, if_neg, if_pos]
  · simp (disch := omega) only [phase, hh, Bool.false_eq_true, if_false, if_neg, if_pos]
  · simp (disch := omega) only [phase, hh, Bool.false_eq_true, if_false, if_neg, if_pos]
  · exact phase_playLoop hh hlo (by omega) (if_pos hhi)
  · exact phase_playLoop hh (by omega) (by omega) (by simp (disch := omega) only [playStep, if_neg, if_pos])
  · exact phase_playLoop hh (by omega) (by omega) (by simp (disch := omega) only [playStep, if_neg, if_pos])
  · exact phase_playLoop hh (by omega) (by omega) (by simp (disch := omega) only [playStep, if_neg, if_pos])
  · exact phase_playLoop hh (by omega) (by omega) (by simp (disch := omega) only [playStep, if_neg, if_pos])
  · exact phase_playLoop hh (by omega) (by omega) (by simp (disch := omega) only [playStep, if_neg])

end Sys2Proof.Machine

namespace Sys2Proof.Machine

open Sys2Proof

/-! ### The PlayLoop ops -/

/-- The ops of the boot, of the codec and of the loader (42_boot.md R303 to R307, 40_codec.md, 41_loader.md). -/
def opsBesidePlay : List Instr :=
  [.spdS, .spdD, .select, .hdrRd, .hdrDec, .hdrAcc, .rateQ, .hint, .load, .loopchk]

/-- What every PlayLoop op that raises no fault leaves as it was, and how the environment moves on. -/
def KeepsBesidePlay (s t : State) : Prop :=
  SameCodec s t ∧ t.busMode = s.busMode ∧ SameStream s t ∧ SameLoader s t ∧ Quiet s t

/-- The PlayLoop ops write the iteration, edge, delay and backlight registers alone, wherever they leave `upc`. -/
theorem Writes.keepsBesidePlay {i : Instr} {s u : State} (hw : Writes s i u) (hi : i ∉ opsBesidePlay) (a : Addr) :
    KeepsBesidePlay s (completeAt u a) := by
  cases hw with
  | nothing | iteration | sampled | settleDelay | paceDelay | backlightOn =>
    exact ⟨⟨⟨rfl, rfl⟩, ⟨rfl, rfl, rfl, rfl, rfl, rfl⟩, ⟨rfl, rfl, rfl, rfl⟩, rfl⟩, rfl, ⟨rfl, rfl, rfl, rfl, rfl⟩,
      ⟨rfl, rfl, fun _ => rfl, fun _ => rfl⟩, ⟨rfl, rfl, rfl⟩, ⟨rfl, rfl⟩, rfl, rfl, rfl, rfl⟩
  | busMode hop => rcases hop with rfl | rfl <;> exact absurd (by decide) hi
  | _ => exact absurd (by decide) hi

theorem samePlay_completeAt (s : State) (a : Addr) : SamePlay s (completeAt s a) :=
  ⟨⟨rfl, rfl, rfl⟩, rfl, ⟨rfl, rfl, rfl, rfl⟩, rfl⟩

/-! ### ITER.BEGIN and JMP -/

theorem toNat_nextIter : ∀ i : BitVec 2, (nextIter i).toNat = min (i.toNat + 1) 3 := by decide

/-- `Now()` is the environment's time modulo 2^32 (43_playloop.md R351). -/
theorem toNat_now (s : State) : s.now.toNat = s.timeNow % 2 ^ 32 := BitVec.toNat_ofNat ..

/-- Settles O26: ITER.BEGIN is one write of the iteration registers, and it completes. -/
theorem iterBeginStampsTheIteration : Obligations.IterBeginStampsTheIteration := by
  intro s
  obtain ⟨hcodec, hbus, hstream, hloader, hquiet⟩ :=
    (Writes.iteration (s := s) s.now).keepsBesidePlay (by decide) (s.upc + 1)
  exact ⟨_, rfl, toNat_nextIter _, toNat_now s, rfl, rfl, rfl, hcodec, hbus, hstream, hloader, ⟨rfl, rfl, rfl, rfl⟩,
    rfl, rfl, hquiet⟩

/-- Settles O35: a target up to 31 fits the five bits of `upc`, and JMP writes nothing else. -/
theorem jmpSetsTheMicroAddress : Obligations.JmpSetsTheMicroAddress := by
  intro s u hu
  obtain ⟨hcodec, hbus, hstream, hloader, hquiet⟩ :=
    (Writes.nothing (s := s) (.jmp u)).keepsBesidePlay (by simp [opsBesidePlay]) (jumpTarget u)
  have htarget : (jumpTarget u).toNat = u := (BitVec.toNat_ofNat ..).trans (Nat.mod_eq_of_lt (by omega))
  exact ⟨_, rfl, htarget, hcodec, hbus, hstream, hloader, samePlay_completeAt s _, rfl, hquiet⟩

/-! ### The edges of TE -/

theorem teDone_strict {s : State} (hm : s.par.teEdgeMode = .strict) (level : Bool) :
    teDone s level = true ↔ s.tePrev = teSeen (!level) ∧ s.draw.te = level := by
  simp [teDone, hm]

theorem teDone_level {s : State} (hm : s.par.teEdgeMode = .level) (level : Bool) :
    teDone s level = true ↔ s.draw.te = level := by
  simp [teDone, hm]

theorem teWait_upc (s : State) (level : Bool) :
    (teWait s level).upc = if teDone s level then s.upc + 1 else s.upc := by
  rcases teWait_cases s level with ⟨hd, h⟩ | ⟨hd, h⟩ <;> rw [h, hd] <;> rfl

/-- A step of a TE wait keeps the sample and moves nothing but `upc` with it. -/
theorem teWait_eq (s : State) (level : Bool) :
    ∃ a, teWait s level = completeAt { s with tePrev := teSeen s.draw.te } a := by
  rcases teWait_cases s level with ⟨-, h⟩ | ⟨-, h⟩
  · exact ⟨s.upc + 1, h⟩
  · exact ⟨s.upc, h⟩

/-- One step of the wait for TE to reach `level`, from `s` to `t`, under either edge mode (43_playloop.md R343,
R344). -/
def WaitsForLevel (s : State) (level : Bool) (t : State) : Prop :=
  (s.draw.te = true → t.tePrev = 0b11) ∧ (s.draw.te = false → t.tePrev = 0b10) ∧
  (s.par.teEdgeMode = .strict → s.tePrev = teSeen (!level) ∧ s.draw.te = level → t.upc = s.upc + 1) ∧
  (s.par.teEdgeMode = .strict → ¬(s.tePrev = teSeen (!level) ∧ s.draw.te = level) → t.upc = s.upc) ∧
  (s.par.teEdgeMode = .level → s.draw.te = level → t.upc = s.upc + 1) ∧
  (s.par.teEdgeMode = .level → s.draw.te = !level → t.upc = s.upc) ∧
  SameCodec s t ∧ t.busMode = s.busMode ∧ SameStream s t ∧ SameLoader s t ∧ SameIteration s t ∧ SameDelay s t ∧
  t.backlight = s.backlight ∧ t.events = s.events ∧ Quiet s t

theorem teWait_waitsForLevel (s : State) (level : Bool) : WaitsForLevel s level (teWait s level) := by
  have hdone : teDone s level = true → (teWait s level).upc = s.upc + 1 := fun h =>
    (teWait_upc s level).trans (if_pos h)
  have hhold : ¬teDone s level = true → (teWait s level).upc = s.upc := fun h =>
    (teWait_upc s level).trans (if_neg h)
  obtain ⟨a, ha⟩ := teWait_eq s level
  obtain ⟨hcodec, hbus, hstream, hloader, hquiet⟩ :=
    (Writes.sampled (s := s) (i := .teRise) (.inl rfl) s.draw.te).keepsBesidePlay (by decide) a
  refine ⟨fun h => ?_, fun h => ?_, fun hm h => hdone ((teDone_strict hm level).2 h),
    fun hm h => hhold (h ∘ (teDone_strict hm level).1), fun hm h => hdone ((teDone_level hm level).2 h),
    fun hm h => hhold fun hd => ?_, ?_⟩
  · rw [ha, h]; rfl
  · rw [ha, h]; rfl
  · exact Bool.not_ne_self level (h.symm.trans ((teDone_level hm level).1 hd))
  · rw [ha]
    exact ⟨hcodec, hbus, hstream, hloader, ⟨rfl, rfl, rfl⟩, ⟨rfl, rfl, rfl, rfl⟩, rfl, rfl, hquiet⟩

/-- Settles O27: TE.RISE is the wait for the high level. -/
theorem teRiseWaitsForTheRisingEdge : Obligations.TeRiseWaitsForTheRisingEdge :=
  fun s => ⟨_, rfl, teWait_waitsForLevel s true⟩

/-- Settles O28: TE.FALL is the wait for the low level. -/
theorem teFallWaitsForTheFallingEdge : Obligations.TeFallWaitsForTheFallingEdge :=
  fun s => ⟨_, rfl, teWait_waitsForLevel s false⟩

/-! ### The Strict wait as a whole -/

/-- The first of several steps that all have a next state. -/
theorem exec_of_execTimes_succ {i : Instr} {n : Nat} {s t : State} (h : execTimes (n + 1) i s = some t) :
    ∃ u, exec i s = .next u ∧ execTimes n i u = some t := by
  cases hx : exec i s with
  | next u => exact ⟨u, rfl, (execTimes_succ hx n).symm.trans h⟩
  | fault | refused => simp [execTimes, hx] at h

/-- The step that leads from `n` steps of an op to `n + 1`. -/
theorem exec_of_execTimes {i : Instr} {n : Nat} {s t u : State} (ht : execTimes n i s = some t)
    (hu : execTimes (n + 1) i s = some u) : exec i t = .next u := by
  induction n generalizing s with
  | zero =>
    cases ht
    obtain ⟨v, hx, hv⟩ := exec_of_execTimes_succ hu
    exact hx.trans (congrArg _ (Option.some.inj hv))
  | succ n ih =>
    obtain ⟨v, hx, hv⟩ := exec_of_execTimes_succ hu
    exact ih ((execTimes_succ hx n).symm.trans ht) hv

/-- A TE.RISE that waits samples one draw a step, under the same parameters. -/
theorem execTimes_teRise {n : Nat} {s t : State} (h : execTimes n .teRise s = some t) :
    t.draw = s.drawAhead n ∧ t.par = s.par := by
  induction n generalizing s with
  | zero =>
    cases h
    exact ⟨rfl, rfl⟩
  | succ n ih =>
    obtain ⟨u, hx, hu⟩ := exec_of_execTimes_succ h
    obtain ⟨a, ha⟩ := teWait_eq s true
    obtain rfl := ha.symm.trans (Host.Outcome.next.inj hx)
    obtain ⟨hdraw, hpar⟩ := ih hu
    exact ⟨hdraw.trans (drawAhead_pass rfl rfl n), hpar⟩

theorem teSeen_injective : Function.Injective teSeen := by
  intro a b
  revert a b
  decide

/-- A TE.RISE that leaves its address has found its edge. -/
theorem teDone_of_exec {s t : State} (hx : exec .teRise s = .next t) (hupc : t.upc = s.upc + 1) :
    teDone s true = true := by
  obtain rfl := Host.Outcome.next.inj hx
  by_contra hd
  rw [teWait_upc, if_neg hd] at hupc
  bv_omega

/-- Settles O29: the last step finds a high sample behind a low one in the detector, which a detector cleared at the
start holds only if the step before sampled it. -/
theorem strictRiseSeesLowThenHigh : Obligations.StrictRiseSeesLowThenHigh := by
  intro s n hm hclear hholds t ht hupc
  obtain ⟨u, hu, huupc⟩ := hholds n le_rfl
  obtain ⟨hdraw, hpar⟩ := execTimes_teRise hu
  have hdone := teDone_of_exec (exec_of_execTimes hu ht) (hupc.trans (congrArg (· + 1) huupc.symm))
  obtain ⟨hlow, hhigh⟩ := (teDone_strict (hpar ▸ hm) true).1 hdone
  cases n with
  | zero =>
    cases hu
    rw [hclear] at hlow
    cases hlow
  | succ m =>
    obtain ⟨v, hv, -⟩ := hholds m (Nat.le_succ m)
    obtain ⟨a, ha⟩ := teWait_eq v true
    obtain rfl := ha.symm.trans (Host.Outcome.next.inj (exec_of_execTimes hv hu))
    obtain ⟨hdrawv, -⟩ := execTimes_teRise hv
    exact ⟨m, rfl, hdrawv ▸ teSeen_injective hlow, hdraw ▸ hhigh⟩

/-! ### SETTLE and PACE -/

/-- What one step of `Delay(len)` at the sample `t` does, from `s` to `u` (43_playloop.md R345). -/
structure DelayStep (s : State) (t len : Micros) (u : State) : Prop where
  starts : s.dlyActive = false → u.dlyT0 = t ∧ u.dlyLen = len
  runs : s.dlyActive = true → u.dlyT0 = s.dlyT0 ∧ u.dlyLen = s.dlyLen
  completes : u.dlyLen.toNat ≤ (t - u.dlyT0).toNat → u.upc = s.upc + 1 ∧ u.dlyActive = false
  holds : (t - u.dlyT0).toNat < u.dlyLen.toNat → u.upc = s.upc ∧ u.dlyActive = true
  writes : ∃ t₀ len' active a, u = completeAt { s with dlyT0 := t₀, dlyLen := len', dlyActive := active } a

/-- The delay that a step of `Delay` runs, whether it starts there or not. -/
theorem delayStart_eq (s : State) (t len : Micros) :
    ∃ t₀ len', delayStart s t len = { s with dlyT0 := t₀, dlyLen := len', dlyActive := true } ∧
      (s.dlyActive = false → t₀ = t ∧ len' = len) ∧ (s.dlyActive = true → t₀ = s.dlyT0 ∧ len' = s.dlyLen) := by
  cases ha : s.dlyActive with
  | true => exact ⟨s.dlyT0, s.dlyLen, by simp only [delayStart, ← ha, if_true], nofun, fun _ => ⟨rfl, rfl⟩⟩
  | false => exact ⟨t, len, by simp [delayStart, ha], fun _ => ⟨rfl, rfl⟩, nofun⟩

theorem delayStep_spec (s : State) (t len : Micros) : DelayStep s t len (delayStep s t len) := by
  obtain ⟨t₀, len', hstart, hfirst, hlater⟩ := delayStart_eq s t len
  unfold delayStep
  rw [hstart]
  dsimp only
  split
  next hle =>
    exact ⟨hfirst, hlater, fun _ => ⟨rfl, rfl⟩, fun hlt => absurd hlt (Nat.not_lt.2 hle), t₀, len', false, _, rfl⟩
  next hlt =>
    exact ⟨hfirst, hlater, fun hle => absurd hle hlt, fun _ => ⟨rfl, rfl⟩, t₀, len', true, _, rfl⟩

/-- Settles O30: SETTLE is one step of the delay with P_SETTLE_US. -/
theorem settleDelaysByTheTimebase : Obligations.SettleDelaysByTheTimebase := by
  intro s
  obtain ⟨t, hx, hd⟩ : ∃ t, exec .settle s = .next t ∧ DelayStep s s.now (settleLen s) t :=
    ⟨_, rfl, delayStep_spec s s.now (settleLen s)⟩
  have hlen : s.dlyActive = false → s.par.settleUs < 2 ^ 32 → t.dlyLen.toNat = s.par.settleUs := fun ha hfits =>
    (congrArg BitVec.toNat (hd.starts ha).2).trans (toNat_settleLen hfits)
  have hzero : s.dlyActive = false → s.par.settleUs = 0 → t.upc = s.upc + 1 := fun ha h0 =>
    (hd.completes (by rw [hlen ha (by omega), h0]; exact Nat.zero_le _)).1
  obtain ⟨hstarts, hruns, hcompletes, hholds, t₀, len, active, a, rfl⟩ := hd
  obtain ⟨hcodec, hbus, hstream, hloader, hquiet⟩ :=
    (Writes.settleDelay (s := s) t₀ len active).keepsBesidePlay (by decide) a
  exact ⟨_, hx, fun ha => ⟨(hstarts ha).1, hlen ha⟩, hruns, hcompletes, hholds, hzero, rfl, hcodec, hbus, hstream,
    hloader, ⟨rfl, rfl, rfl⟩, rfl, rfl, rfl, hquiet⟩

/-- A step of PACE whose checks pass is a step of its delay; the first one computes the sleep (43_playloop.md
R349). -/
theorem exec_pace_ready {s : State} (h : s.dlyActive = true ∨ s.rateValid = true ∧ s.tsValid = true) :
    ∃ sleep len t, exec .pace s = .next t ∧ DelayStep { s with paceSleepUs := sleep } s.now len t ∧
      (s.dlyActive = false → sleep = paceSleep s s.now ∧ len = sleep) ∧
      (s.dlyActive = true → sleep = s.paceSleepUs) := by
  rcases Bool.eq_false_or_eq_true s.dlyActive with ha | ha
  · have hx : exec .pace s = .next (delayStep s s.now 0) := by simp only [exec, execPace, ha, if_true]
    exact ⟨s.paceSleepUs, 0, _, hx, delayStep_spec s s.now 0, fun hno => absurd ha (by simp [hno]), fun _ => rfl⟩
  · obtain ⟨hrate, hts⟩ := h.resolve_left (by simp [ha])
    have hx :
        exec .pace s =
          .next (delayStep { s with paceSleepUs := paceSleep s s.now } s.now (paceSleep s s.now)) := by
      simp only [exec, execPace, ha, Bool.false_eq_true, if_false, need_pos hrate, need_pos hts]
    exact ⟨_, _, _, hx, delayStep_spec _ _ _, fun _ => ⟨rfl, rfl⟩, fun hyes => absurd ha (by simp [hyes])⟩

/-- Settles O33: the two checks of the first step, then the delay. -/
theorem paceSleepsTheRestOfTheBudget : Obligations.PaceSleepsTheRestOfTheBudget := by
  intro s
  refine ⟨fun ha hr => ?_, fun ha hr hts => ?_, fun h => ?_⟩
  · simp only [exec, execPace, ha, Bool.false_eq_true, if_false, need_neg hr]
    rfl
  · simp only [exec, execPace, ha, Bool.false_eq_true, if_false, need_pos hr, need_neg hts]
    rfl
  obtain ⟨sleep, len, t, hx, ⟨hstarts, hruns, hcompletes, hholds, t₀, len', active, a, rfl⟩, hfirst, hlater⟩ :=
    exec_pace_ready h
  obtain ⟨hcodec, hbus, hstream, hloader, hquiet⟩ :=
    (Writes.paceDelay (s := s) t₀ len' sleep active).keepsBesidePlay (by decide) a
  refine ⟨_, hx, fun ha => ?_, fun ha => ⟨hlater ha, hruns ha⟩, hcompletes, hholds, hcodec, hbus, hstream, hloader,
    ⟨rfl, rfl, rfl⟩, rfl, rfl, rfl, hquiet⟩
  obtain ⟨ht₀, hlen'⟩ := hstarts ha
  obtain ⟨rfl, rfl⟩ := hfirst ha
  refine ⟨toNat_paceSleep s s.now, ht₀, hlen', fun hover => (hcompletes ?_).1⟩
  rw [hlen', toNat_paceSleep, Nat.sub_eq_zero_of_le hover]
  exact Nat.zero_le _

/-! ### The pacing as a whole -/

/-- A PACE that started at `s` stands at `u`: its delay is the one that started there, and once it is over the sleep has
passed on the environment's time. -/
structure Paces (s u : State) : Prop where
  started : u.dlyT0 = s.now
  length : u.dlyLen = paceSleep s s.now
  later : s.timeNow ≤ u.time
  slept : u.dlyActive = false → s.timeNow + (paceSleep s s.now).toNat ≤ u.time

/-- The difference of two samples is at most the time between them (43_playloop.md R351). -/
theorem toNat_now_sub_le {s : State} {start : Nat} (h : start ≤ s.timeNow) :
    (s.now - BitVec.ofNat 32 start).toNat ≤ s.timeNow - start := by
  rw [BitVec.toNat_sub, toNat_now, BitVec.toNat_ofNat]
  omega

/-- A step of PACE whose delay is the one that started at `s` ends no earlier than the sleep. -/
theorem Paces.of_delayStep {s v u : State} {sleep len : Micros}
    (hd : DelayStep { v with paceSleepUs := sleep } v.now len u) (hle : s.timeNow ≤ v.timeNow)
    (hstarted : u.dlyT0 = s.now) (hlength : u.dlyLen = paceSleep s s.now) : Paces s u := by
  have htime : u.time = v.timeNow := by
    obtain ⟨t₀, len', active, a, rfl⟩ := hd.writes
    rfl
  refine ⟨hstarted, hlength, htime ▸ hle, fun hover => ?_⟩
  have hpassed : u.dlyLen.toNat ≤ (v.now - u.dlyT0).toNat := by
    by_contra hlt
    exact absurd hover (by simp [(hd.holds (Nat.lt_of_not_le hlt)).2])
  rw [hlength, hstarted] at hpassed
  have hsleep : (paceSleep s s.now).toNat ≤ v.timeNow - s.timeNow := hpassed.trans (toNat_now_sub_le hle)
  omega

theorem Paces.first {s u : State} (ha : s.dlyActive = false) (hr : s.rateValid = true) (hts : s.tsValid = true)
    (hx : exec .pace s = .next u) : Paces s u := by
  obtain ⟨sleep, len, t, hx', hd, hfirst, -⟩ := exec_pace_ready (.inr ⟨hr, hts⟩)
  obtain rfl := Host.Outcome.next.inj (hx'.symm.trans hx)
  obtain ⟨rfl, rfl⟩ := hfirst ha
  obtain ⟨hstarted, hlength⟩ := hd.starts ha
  exact .of_delayStep hd le_rfl hstarted hlength

theorem Paces.next {s v u : State} (h : Paces s v) (ha : v.dlyActive = true) (hx : exec .pace v = .next u) :
    Paces s u := by
  obtain ⟨sleep, len, t, hx', hd, -, -⟩ := exec_pace_ready (.inl ha)
  obtain rfl := Host.Outcome.next.inj (hx'.symm.trans hx)
  obtain ⟨hstarted, hlength⟩ := hd.runs ha
  exact .of_delayStep hd (h.later.trans (time_le_timeNow v)) (hstarted.trans h.started) (hlength.trans h.length)

/-- A PACE whose delay runs through `n` steps still paces after one more. -/
theorem Paces.of_execTimes {s : State} (ha : s.dlyActive = false) (hr : s.rateValid = true) (hts : s.tsValid = true)
    {n : Nat} (hwait : ∀ k, 1 ≤ k → k ≤ n → ∃ u, execTimes k .pace s = some u ∧ u.dlyActive = true) {t : State}
    (ht : execTimes (n + 1) .pace s = some t) : Paces s t := by
  induction n generalizing t with
  | zero => exact .first ha hr hts (exec_of_execTimes (execTimes_zero _ _) ht)
  | succ n ih =>
    obtain ⟨u, hu, hactive⟩ := hwait (n + 1) (Nat.succ_pos n) le_rfl
    have hpaces := ih (fun k hk hle => hwait k hk (Nat.le_succ_of_le hle)) hu
    exact hpaces.next hactive (exec_of_execTimes hu ht)

/-- Settles O34: the sleep is the budget less no more than the time since `start`, and it has passed when the delay is
over. Of an iteration beyond its budget the bound holds too, so that premise goes unused. -/
theorem pacingIsALowerBound : Obligations.PacingIsALowerBound := by
  intro s n start ha hr hts hstamp hstart _ hwait t ht hover
  have hslept := (Paces.of_execTimes ha hr hts hwait ht).slept hover
  have helapsed := toNat_now_sub_le hstart
  rw [toNat_paceSleep, hstamp] at hslept
  omega

/-! ### PRESENT and BL.ON2 -/

theorem exec_present_failed {s : State} (hmode : s.busMode = .display) (hvalid : s.fbValid = true)
    (ha : s.draw.answers = true) (hp : s.draw.presents = false) :
    exec .present s = .next (raise (s.emit (.dispPresent (s.fb.readRange 0 fbBytes) false)) .presentError 0) := by
  simp only [exec, execPresent, need_pos (decide_eq_true hmode), need_pos hvalid, answered_yes ha, hp,
    Bool.false_eq_true, if_false]

/-- Settles O31: the two checks, then FB byte by byte, in one transaction that fails or completes. -/
theorem presentSendsTheWholeFramebuffer : Obligations.PresentSendsTheWholeFramebuffer := by
  refine fun s => ⟨fun hm => congrArg _ (need_neg (decide_eq_false hm) ..), fun hm hv => ?_, fun hm hv ha => ?_⟩
  · exact congrArg _ ((need_pos (decide_eq_true hm) ..).trans (need_neg hv ..))
  · refine ⟨s.fb.readRange 0 fbBytes, Memory.length_readRange _ _ _, fun a hlt => ?_, exec_present_failed hm hv ha,
      fun hp => ⟨_, exec_present hm hv ha hp, rfl, rfl, ?_⟩⟩
    · rw [Memory.getElem?_readRange, if_pos (show a < fbBytes from hlt), Nat.zero_add]
    · obtain ⟨hcodec, hbus, hstream, hloader, hquiet⟩ :=
        (Writes.nothing (s := s.emit (.dispPresent (s.fb.readRange 0 fbBytes) true)) .present).keepsBesidePlay
          (by decide) (s.upc + 1)
      exact ⟨hcodec, hbus, hstream, hloader, samePlay_completeAt (s.emit _) _, hquiet⟩

theorem exec_blOn2_second {s : State} (hi : s.iter = 2) :
    exec .blOn2 s = .next (answered s (complete { s.emit (.dispBacklight true) with backlight := true })) :=
  congrArg _ (if_pos hi)

theorem exec_blOn2_other {s : State} (hi : s.iter ≠ 2) : exec .blOn2 s = .next (complete s) :=
  congrArg _ (if_neg hi)

/-- Settles O32: in iteration 2 one transaction and the backlight, in any other nothing. -/
theorem backlightComesOnInIterationTwo : Obligations.BacklightComesOnInIterationTwo := by
  refine fun s => ⟨fun hi ha => ?_, fun hi => ?_⟩
  · obtain ⟨hcodec, hbus, hstream, hloader, hquiet⟩ :=
      (Writes.backlightOn (s := s.emit (.dispBacklight true)) hi).keepsBesidePlay (by decide) (s.upc + 1)
    exact ⟨_, (exec_blOn2_second hi).trans (congrArg _ (answered_yes ha _)), rfl, rfl, rfl, hcodec, hbus, hstream,
      hloader, ⟨rfl, rfl, rfl⟩, rfl, ⟨rfl, rfl, rfl, rfl⟩, hquiet⟩
  · obtain ⟨hcodec, hbus, hstream, hloader, hquiet⟩ :=
      (Writes.nothing (s := s) .blOn2).keepsBesidePlay (by decide) (s.upc + 1)
    exact ⟨_, exec_blOn2_other hi, rfl, rfl, hcodec, hbus, hstream, hloader, samePlay_completeAt s _, hquiet⟩

/-! ### The transactions that do not answer -/

/-- Settles O41: behind the checks each of the eight ops waits for its answer, and a hold writes nothing. -/
theorem unansweredTransactionsHold : Obligations.UnansweredTransactionsHold := by
  intro s ha
  obtain ⟨hcodec, hbus, hstream, hloader, hquiet⟩ :=
    (Writes.nothing (s := s) .present).keepsBesidePlay (by decide) s.upc
  have hheld : ∀ next, answered s next = stay s := answered_no ha
  refine ⟨congrArg _ (hheld _), congrArg _ (hheld _), fun hm => ?_, fun hm ho => ?_, fun r hready hr hb => ?_,
    fun hm ho hv he => ?_, fun hm hv => ?_, fun hi => ?_, rfl, hcodec, hbus, hstream, hloader,
    samePlay_completeAt s s.upc, rfl, hquiet⟩
  · exact congrArg _ ((need_pos (decide_eq_true hm) ..).trans (hheld _))
  · exact congrArg _ ((need_pos (decide_eq_true hm) ..).trans ((need_pos ho ..).trans (hheld _)))
  · exact (execLoad_of_ready hready hr hb).trans (congrArg _ (hheld _))
  · exact (exec_loopchk_ready hm ho hv).trans (congrArg _ ((if_pos he).trans (hheld _)))
  · exact congrArg _ ((need_pos (decide_eq_true hm) ..).trans ((need_pos hv ..).trans (hheld _)))
  · exact (exec_blOn2_second hi).trans (congrArg _ (hheld _))

end Sys2Proof.Machine

namespace Sys2Proof.Machine

open Sys2Proof

/-! ### Fault entry -/

/-- Every field of STATUS is 0 after a reset of the block, for it reads only elements that R450 gives a value. -/
theorem status_blockReset (s : State) : status (State.pass (blockReset s)) = 0 := by
  obtain ⟨hreset, -⟩ := statusPacksItsFields
  exact hreset

/-- Settles O36: under Halt fault entry writes the latch, the record and `halted` alone, and the Halted state takes no
step; under Reset it is the reset of the block, with the fault on the record. -/
theorem faultEntryHaltsOrResets : Obligations.FaultEntryHaltsOrResets := by
  refine fun s c info => ⟨fun hhalt => ?_, fun hreset => ?_⟩
  · rw [raise_halt hhalt]
    exact ⟨rfl, rfl, rfl, rfl, rfl, rfl,
      ⟨⟨rfl, rfl⟩, ⟨rfl, rfl, rfl, rfl, rfl, rfl⟩, ⟨rfl, rfl, rfl, rfl⟩, rfl⟩, rfl, ⟨rfl, rfl, rfl, rfl, rfl⟩,
      ⟨rfl, rfl, fun _ => rfl, fun _ => rfl⟩, ⟨⟨rfl, rfl, rfl⟩, rfl, ⟨rfl, rfl, rfl, rfl⟩, rfl⟩, ⟨rfl, rfl, rfl⟩,
      ⟨rfl, rfl⟩, fun hr => step_of_halted hr rfl⟩
  · rw [raise_reset hreset]
    exact ⟨status_blockReset _, rfl, rfl, rfl, rfl, rfl, rfl, rfl, rfl, rfl, rfl, rfl, rfl, rfl, rfl, rfl, rfl, rfl,
      rfl, rfl, rfl, rfl, rfl, rfl, fun _ => rfl, fun _ => rfl, ⟨rfl, rfl, rfl⟩, rfl, rfl⟩

/-- No op moves `upc` before its end. -/
theorem Writes.upc_eq {i : Instr} {s u : State} (hw : Writes s i u) : u.upc = s.upc := by cases hw <;> rfl

/-- Settles O37, by the ends of an op: what it does before its end leaves the record's faults, the latch and `upc`, and
only one of the ends is a fault. -/
theorem everyFaultIsPreciseInUpc : Obligations.EveryFaultIsPreciseInUpc := by
  intro i s t hx
  obtain ⟨es, u, hes, hw, he⟩ := exec_endsAs hx
  have hquiet : fatals u.events = fatals s.events := by rw [hw.events_eq, fatals_emitAll hes]
  cases he with
  | stays | completes => exact .inl ⟨hquiet, hw.sameLatch⟩
  | faults c info =>
    have hupc : u.upc = s.upc := hw.upc_eq
    have hpar : u.par = s.par := hw.par_eq
    refine .inr ⟨c, info, u.events, hupc ▸ raise_events u c info, hquiet, fun hhalt => ?_⟩
    rw [raise_halt (hpar ▸ hhalt)]
    exact ⟨rfl, hupc, rfl, hupc, rfl⟩

/-! ### The stops -/

/-- Only LOAD has an answer that is no next state. -/
theorem exists_exec_of_ne_load {i : Instr} (hi : i ≠ .load) (s : State) : ∃ t, exec i s = .next t := by
  cases i with
  | load => exact absurd rfl hi
  | _ => exact ⟨_, rfl⟩

/-- A LOAD that passes its preconditions finds a routine, and its batch inside FB (41_loader.md R253, R262). -/
theorem State.Inv.exists_execLoad {s : State} (h : s.Inv) : ∃ t, execLoad s = .next t := by
  by_cases hready : loadReady s = true
  · obtain ⟨-, -, r, hr, hb, -⟩ := h.header (hdrValid_of_loadReady hready)
    exact ⟨_, execLoad_of_ready hready hr hb⟩
  · exact ⟨_, execLoad_of_not_ready hready⟩

theorem State.Inv.exists_exec {s : State} (h : s.Inv) (i : Instr) : ∃ t, exec i s = .next t := by
  by_cases hi : i = .load
  · exact hi ▸ h.exists_execLoad
  · exact exists_exec_of_ne_load hi s

/-- Settles O46, by the cases of a step: of those that take no reset and are not halted, an illegal word faults into a
next state, and an op has one. -/
theorem onlyTheHaltedStateStops : Obligations.OnlyTheHaltedStateStops := by
  refine fun s h => ⟨fun hh hr => step_of_halted hr hh, fun hgo => ?_⟩
  rcases step_cases s with ⟨-, hx⟩ | ⟨hr, hh, -⟩ | ⟨w, -, -, -, hx⟩ | ⟨i, -, -, -, hx⟩
  · exact ⟨_, hx⟩
  · simp [hr, hh] at hgo
  · exact ⟨_, hx⟩
  · exact hx ▸ h.exists_exec i

/-! ### Runs under the normative ROM -/

/-- The first step of a run that has a next state. -/
theorem step_of_run_succ {M : Host.Core} {n : Nat} {s t : M.State} (hrun : M.run (n + 1) s = .next t) :
    ∃ u, M.step s = .next u ∧ M.run n u = .next t := by
  rw [Host.Core.run] at hrun
  split at hrun
  next u hx => exact ⟨u, hx, hrun⟩
  all_goals cases hrun

/-- What holds at the start of a run and is kept by every step holds at its end. -/
theorem run_keeps {M : Host.Core} {P : M.State → Prop} (hkeep : ∀ s t, P s → M.step s = .next t → P t) {n : Nat}
    {s t : M.State} (hs : P s) (hrun : M.run n s = .next t) : P t := by
  induction n generalizing s with
  | zero =>
    obtain rfl := Host.Outcome.next.inj hrun
    exact hs
  | succ n ih =>
    obtain ⟨u, hx, hrest⟩ := step_of_run_succ hrun
    exact ih (hkeep s u hs hx) hrest

/-- A state of the normative ROM whose record holds no model check (60_exceptions.md R409). -/
structure State.RomUnchecked (s : State) : Prop where
  romInv : s.RomInv
  unchecked : ∀ c ∈ fatals s.events, c.isModelCheck = false

theorem State.RomUnchecked.step {s t : State} (h : s.RomUnchecked) (hstep : step s = .next t) : t.RomUnchecked where
  romInv := h.romInv.step hstep
  unchecked c hc := (romStepsRaiseNoModelCheck s t h.romInv hstep c hc).elim (h.unchecked c) id

/-- Settles O50: the record of the reset state is empty, and from a state of the ROM's invariant no step adds a model
check to it. -/
theorem normativeRomRaisesNoModelCheck : Obligations.NormativeRomRaisesNoModelCheck := by
  intro p script n t hrun
  have hstart : State.RomUnchecked { State.reset with par := p, script := script } :=
    { romInv := romInv_reset p script 0, unchecked := nofun }
  have hend : State.RomUnchecked t := run_keeps (M := Sys2Proof.core) (fun _ _ => State.RomUnchecked.step) hstart hrun
  exact hend.unchecked

end Sys2Proof.Machine

namespace Sys2Proof.Machine

open Sys2Proof

/-! ### The reset -/

/-- Settles O44: the reset state is the reset of the block from itself. -/
theorem resetMeetsTheInvariant : Obligations.ResetMeetsTheInvariant := by
  intro p rom script time
  exact inv_blockReset { State.reset with par := p, rom := rom, script := script, time := time }

/-- The reset input comes before the Halted state and before the fetch (70_reset_and_hazards.md R452). -/
theorem step_of_reset {s : State} (hr : s.draw.reset = true) : step s = .next (resetInput s) := if_pos hr

/-- Settles O39: the step is the reset of the block, whose elements are those of the reset state. -/
theorem resetInputResetsTheBlock : Obligations.ResetInputResetsTheBlock := by
  refine ⟨fun s hr => ⟨resetInput s, step_of_reset hr, status_blockReset s, ?_⟩, status_blockReset State.reset, rfl⟩
  exact ⟨rfl, rfl, rfl, rfl, rfl, rfl, rfl, rfl, rfl, rfl, rfl, rfl, rfl, rfl, rfl, rfl, rfl, rfl, rfl, rfl, rfl, rfl,
    fun _ => rfl, fun _ => rfl, rfl, ⟨rfl, rfl, rfl⟩, rfl, rfl⟩

/-! ### The frames that PRESENT sends -/

/-- Each frame that `t`'s record has over that of `s` is FB of `s`, sent while `fb_valid` is set. -/
def SendsValidFb (s t : State) : Prop :=
  ∀ frame ok, .dispPresent frame ok ∈ t.events →
    .dispPresent frame ok ∈ s.events ∨ s.fbValid = true ∧ frame = s.fb.readRange 0 fbBytes

theorem SendsValidFb.refl (s : State) : SendsValidFb s s := fun _ _ => .inl

theorem SendsValidFb.emit {s : State} (hv : s.fbValid = true) (ok : Bool) :
    SendsValidFb s (s.emit (.dispPresent (s.fb.readRange 0 fbBytes) ok)) := by
  intro frame ok' hmem
  rcases List.mem_cons.1 hmem with heq | hold
  · exact .inr ⟨hv, (Event.dispPresent.inj heq).1⟩
  · exact .inl hold

/-- A fault puts no frame on the record. -/
theorem SendsValidFb.raise {s u : State} (h : SendsValidFb s u) (c : FatalCode) (info : Word32) :
    SendsValidFb s (raise u c info) := by
  intro frame ok hmem
  rw [raise_events] at hmem
  exact h frame ok ((List.mem_cons.1 hmem).resolve_left nofun)

/-- PRESENT sends FB, and only behind the check of `fb_valid` (43_playloop.md R347). -/
theorem exec_present_sendsValidFb {s t : State} (hx : exec .present s = .next t) : SendsValidFb s t := by
  obtain rfl := Host.Outcome.next.inj hx
  refine need_elim (fun _ => (SendsValidFb.refl s).raise _ _) fun _ =>
    need_elim (fun _ => (SendsValidFb.refl s).raise _ _) fun hv => answered_elim (fun _ => .refl s) fun _ => ?_
  dsimp only
  split
  · exact .emit hv true
  · exact (SendsValidFb.emit hv false).raise _ _

/-- FB reads as a whole frame while `fb_valid` is set (10_state.md R44). -/
theorem State.Inv.isSome_of_mem_fb {s : State} (h : s.Inv) (hv : s.fbValid = true) :
    ∀ b ∈ s.fb.readRange 0 fbBytes, b.isSome = true := by
  rw [Memory.readRange_eq, List.forall_mem_map]
  intro a ha
  rw [Nat.zero_add]
  exact h.frame hv a (List.mem_range.1 ha)

/-- Settles O47: only a LOAD finds a LOAD in progress, and the frame that PRESENT adds to the record is FB, which holds
a whole frame while `fb_valid` is set. -/
theorem presentedFramesAreWhole : Obligations.PresentedFramesAreWhole := by
  refine fun s t h hx => ⟨fun hi => h.bidx_eq_zero hi (by decide), fun frame ok hmem => ?_⟩
  refine (exec_present_sendsValidFb hx frame ok hmem).imp_right fun ⟨hv, hframe⟩ => ?_
  subst hframe
  exact ⟨Memory.length_readRange _ _ _, h.isSome_of_mem_fb hv⟩

end Sys2Proof.Machine
